-- ==== Sys2Proof/Word.lean ====
section
/-! DEFINITION. The bit-vector widths of the block (00_scope.md R10, R13). -/

namespace Sys2Proof

/-- A parameter value, frame byte, pitch-table entry, chip register address or bus data item (R13). -/
abbrev Byte := BitVec 8

/-- A command word, an operand word, or the value of a readout (R13, R59). -/
abbrev Word := BitVec 32

/-- A voice index 0..15 as the block writes it and stores it in LAST_VOICE (R13). -/
abbrev Voice := BitVec 4

/-- A slot number 0..15: the index `k` of the register file SLOT (R24). -/
abbrev SlotIx := Fin 16

/-- A MIDI velocity, 7 bits (R80). -/
abbrev Velocity := BitVec 7

/-- A slot age, the two's-complement pattern of a signed 32-bit integer (R13, R26). -/
abbrev Age := BitVec 32

/-- A coefficient code, 24 bits (R13, R180). -/
abbrev Code := BitVec 24

/-- An IEEE 754 binary64 pattern (R11, R76). -/
abbrev Binary64 := BitVec 64

/-- A 30-byte voice-parameter frame (R7 FRAME_LEN, R23). -/
abbrev Frame := Vector Byte 30

end Sys2Proof
end

