-- ==== Sys2Proof/Syntax.lean ====
section
/-! DEFINITION. The commands of the block, one constructor per row of spec/opcode_table.json (30_encoding.md R84),
with the operand fields of their formats at the widths the formats give them. -/

namespace Sys2Proof

/-- A command. Every operand field is as wide as its format makes it (R78 to R83), so every term of this type has an
encoding; `Instr.legal` (WellFormed.lean) says which ones R88 lets run. -/
inductive Instr where
  /-- SETUP, format N: issue the chip initialisation program (R132). -/
  | setup
  /-- PWRG, format PG: write a general parameter value (R104). -/
  | pwrg (idx val : Byte)
  /-- PWRO, format PO: write an operator parameter value (R105). -/
  | pwro (idx : Byte) (opi : BitVec 2) (val : Byte)
  /-- ENCFRAME, format N: encode the voice frame into FB (R108). -/
  | encframe
  /-- SENDFRAME, format N: encode the voice frame and send it as a burst (R110). -/
  | sendframe
  /-- NOTEON, format NT: MIDI note-on (R159). -/
  | noteon (note : Byte) (vel : Velocity)
  /-- NOTEOFF, format NF: MIDI note-off (R160). -/
  | noteoff (note : Byte)
  /-- NOTEEV, format NE: raw note event (R131). -/
  | noteev (voice : Voice) (hi lo : Byte) (vel : Velocity)
  /-- COEFENC, format N and two operand words: convert one coefficient (R189). -/
  | coefenc (x : Binary64)
  /-- EQWR, format EQ and ten operand words: write one equalizer unit (R191). -/
  | eqwr (unit : BitVec 2) (b0 b1 b2 a1 a2 : Binary64)
deriving DecidableEq, Repr

end Sys2Proof
end

