-- ==== Sys2Proof/Decode.lean ====
section
/-! DEFINITION. The decoder and the encoder of command words (30_encoding.md R75 to R92). -/

namespace Sys2Proof

/-! ### Opcodes (R84) -/

/-- The ten opcodes of the map (R84). -/
inductive Opcode where
  | setup | pwrg | pwro | encframe | sendframe | noteon | noteoff | noteev | coefenc | eqwr
deriving DecidableEq, Repr

/-- Why a command word selects no command. -/
inductive IllegalWord where
  /-- OPC is 0x0 or 0xB..0xF (R86). -/
  | reservedOpcode
  /-- A reserved bit of a word with a listed OPC is 1 (R87). -/
  | reservedBits
deriving DecidableEq, Repr

/-- What the decoder finds at the head of the command stream. -/
inductive Decoded where
  /-- A command, and the words after it. -/
  | command (i : Instr) (rest : List Word)
  /-- An illegal command word; it and the operand words its OPC announces are consumed (R86, R87). -/
  | illegal (why : IllegalWord) (rest : List Word)
  /-- The words presented so far do not hold a whole command. -/
  | incomplete
deriving DecidableEq, Repr

/-- OPC = W[31:28] (R75). -/
def opcodeField (w : Word) : BitVec 4 := w.extractLsb' 28 4

/-- The opcode map: OPC values 0x1 to 0xA are listed, every other one is reserved (R84). -/
def opcodeOf (opc : BitVec 4) : Option Opcode :=
  match opc.toNat with
  | 0x1 => some .setup
  | 0x2 => some .pwrg
  | 0x3 => some .pwro
  | 0x4 => some .encframe
  | 0x5 => some .sendframe
  | 0x6 => some .noteon
  | 0x7 => some .noteoff
  | 0x8 => some .noteev
  | 0x9 => some .coefenc
  | 0xA => some .eqwr
  | _ => none

/-- The OPC value of an opcode (R84). -/
def opcodeValue : Opcode → BitVec 4
  | .setup => 0x1
  | .pwrg => 0x2
  | .pwro => 0x3
  | .encframe => 0x4
  | .sendframe => 0x5
  | .noteon => 0x6
  | .noteoff => 0x7
  | .noteev => 0x8
  | .coefenc => 0x9
  | .eqwr => 0xA

/-- The opcode of a command (R84). -/
def Instr.opcode : Instr → Opcode
  | .setup => .setup
  | .pwrg _ _ => .pwrg
  | .pwro _ _ _ => .pwro
  | .encframe => .encframe
  | .sendframe => .sendframe
  | .noteon _ _ => .noteon
  | .noteoff _ => .noteoff
  | .noteev _ _ _ _ => .noteev
  | .coefenc _ => .coefenc
  | .eqwr _ _ _ _ _ _ => .eqwr

/-- How many operand words follow the command word (R76, R84). -/
def operandWords : Opcode → Nat
  | .coefenc => 2
  | .eqwr => 10
  | _ => 0

/-- The total length of the command that starts with word `w`, told from OPC alone; an unknown OPC counts as one word
(R84, R86, R89). -/
def commandLength (w : Word) : Nat :=
  match opcodeOf (opcodeField w) with
  | some op => 1 + operandWords op
  | none => 1

/-- The reserved bits of each format: every bit outside OPC and the named fields (R75, R77 to R83). -/
def reservedMask : Opcode → Word
  | .setup | .encframe | .sendframe | .coefenc => 0x0FFFFFFF
  | .pwrg => 0x000FFF00
  | .pwro => 0x000CFF00
  | .noteon => 0x0FFF0080
  | .noteoff => 0x0FFF00FF
  | .noteev => 0x00000080
  | .eqwr => 0x0FFFFFFC

/-! ### Operands (R75, R76) -/

/-- The field `W[lo + len - 1 : lo]`, unsigned (R10, R75). -/
def wordField (w : Word) (lo len : Nat) : BitVec len := w.extractLsb' lo len

/-- Operand word `n` (from 0); 0 where there is none, which `decode` never reads. -/
def operandWord (ops : List Word) (n : Nat) : Word := ops.getD n 0

/-- Binary64 operand `j`: operand word 2j holds bits 63:32 and operand word 2j + 1 bits 31:0 (R76). -/
def binary64Operand (ops : List Word) (j : Nat) : Binary64 :=
  operandWord ops (2 * j) ++ operandWord ops (2 * j + 1)

/-- The command of opcode `op` with the fields of word `w` and the operand words `ops` (R77 to R83). -/
def readCommand (op : Opcode) (w : Word) (ops : List Word) : Instr :=
  match op with
  | .setup => .setup
  | .pwrg => .pwrg (wordField w 20 8) (wordField w 0 8)
  | .pwro => .pwro (wordField w 20 8) (wordField w 16 2) (wordField w 0 8)
  | .encframe => .encframe
  | .sendframe => .sendframe
  | .noteon => .noteon (wordField w 8 8) (wordField w 0 7)
  | .noteoff => .noteoff (wordField w 8 8)
  | .noteev => .noteev (wordField w 24 4) (wordField w 16 8) (wordField w 8 8) (wordField w 0 7)
  | .coefenc => .coefenc (binary64Operand ops 0)
  | .eqwr =>
    .eqwr (wordField w 0 2) (binary64Operand ops 0) (binary64Operand ops 1) (binary64Operand ops 2)
      (binary64Operand ops 3) (binary64Operand ops 4)

/-- Decode the command at the head of a word stream. The opcode is checked first, then the reserved bits (R211); the
whole command, operand words included, must have been presented (R63, R89). -/
def decode (ws : List Word) : Decoded :=
  match ws with
  | [] => .incomplete
  | w :: after =>
    match opcodeOf (opcodeField w) with
    | none => .illegal .reservedOpcode after
    | some op =>
      if after.length < operandWords op then .incomplete
      else if w &&& reservedMask op = 0 then
        .command (readCommand op w (after.take (operandWords op))) (after.drop (operandWords op))
      else .illegal .reservedBits (after.drop (operandWords op))

/-! ### The encoder -/

/-- OPC placed in bits 31:28, all other bits 0 (R75). -/
def opcodeBits (op : Opcode) : Word := (opcodeValue op).setWidth 32 <<< 28

/-- A field's value placed with its bit 0 at bit `lo` (R75). -/
def placeField {n : Nat} (lo : Nat) (v : BitVec n) : Word := v.setWidth 32 <<< lo

/-- The two operand words of a binary64 value: bits 63:32, then bits 31:0 (R76). -/
def binary64Words (x : Binary64) : List Word := [x.extractLsb' 32 32, x.extractLsb' 0 32]

/-- The words of a command (R77 to R84). -/
def encode : Instr → List Word
  | .setup => [opcodeBits .setup]
  | .pwrg idx val => [opcodeBits .pwrg ||| placeField 20 idx ||| placeField 0 val]
  | .pwro idx opi val => [opcodeBits .pwro ||| placeField 20 idx ||| placeField 16 opi ||| placeField 0 val]
  | .encframe => [opcodeBits .encframe]
  | .sendframe => [opcodeBits .sendframe]
  | .noteon note vel => [opcodeBits .noteon ||| placeField 8 note ||| placeField 0 vel]
  | .noteoff note => [opcodeBits .noteoff ||| placeField 8 note]
  | .noteev voice hi lo vel =>
    [opcodeBits .noteev ||| placeField 24 voice ||| placeField 16 hi ||| placeField 8 lo ||| placeField 0 vel]
  | .coefenc x => opcodeBits .coefenc :: binary64Words x
  | .eqwr unit b0 b1 b2 a1 a2 =>
    (opcodeBits .eqwr ||| placeField 0 unit) ::
      (binary64Words b0 ++ binary64Words b1 ++ binary64Words b2 ++ binary64Words a1 ++ binary64Words a2)

/-! ### The opcode table's numbering -/

/-- The longest command, EQWR, in words (R84). -/
def longestCommand : Nat := 11

/-- Word `n` of a command whose bits are `w`, bit 0 of `w` being the least significant bit of the first word. -/
def tableWord (nbits w n : Nat) : Word := BitVec.ofNat 32 ((w % (1 <<< nbits)) >>> (32 * n))

/-- The words of the command whose low `nbits` bits are `w` and whose other bits are 0: as many as its OPC announces. -/
def tableWords (nbits w : Nat) : List Word :=
  ((List.range longestCommand).map (tableWord nbits w)).take (commandLength (tableWord nbits w 0))

/-- The instruction the decoder reads from a command of spec/opcode_table.json's numbering; none where it refuses. -/
def decodeTableWord (nbits w : Nat) : Option Instr :=
  match decode (tableWords nbits w) with
  | .command i _ => some i
  | .illegal _ _ => none
  | .incomplete => none

end Sys2Proof
end

