-- ==== Sys2Proof/Config.lean ====
section
/-! DEFINITION. The configuration of the block: the constants the spec fixes (00_scope.md R7, R8), the parameters it
leaves open (R9, 10_state.md R33), and the spec's own test configuration TCFG (95_test_vectors.md section 0). -/

namespace Sys2Proof

/-! ### Fixed parameters (R7, R8) -/

/-- REG_KEY: the chip's note-on/off register (R7). -/
def Config.regKey : Byte := 0x0F

/-- KEYON_BIT: set in the strobe's data byte (R7, R130). -/
def Config.keyonBit : Byte := 0x40

/-- NOTE_MOD: the modulus of the pitch-table index (R7, R151; the stated 127 is kept, 90_conflicts.md C8). -/
def Config.noteMod : Nat := 127

/-- VEL_MASK: applied to the velocity of a note-on write (R8, R130; 92_eei_decisions.md D20). -/
def Config.velMask : Byte := 0x7E

/-- AGE_MAX = 2^31 - 1, where an age saturates (R8, R26). -/
def Config.ageMax : Age := 0x7FFFFFFF

/-- OP_STRIDE: bytes between the placements of one operator descriptor (R7, R103). -/
def Config.opStride : Nat := 7

/-- VOICE_COPIES: frames in one voice burst (R7, R109). -/
def Config.voiceCopies : Nat := 16

/-- EQ_ADDR(0): the chip address of equalizer unit 0; unit `u` is at 32 + u (R7, R190). -/
def Config.eqAddr : Byte := 32

/-- The most entries a descriptor list may have, since IDX is 8 bits (R9, R223). -/
def Config.maxDescriptors : Nat := 256

/-! ### Descriptors (R100) -/

/-- The domain of a parameter (R100). -/
inductive Domain where
  /-- `Count(c)`: the legal values are 0 .. c-1. -/
  | count (c : Nat)
  /-- `Range(min, max)`: the legal values are min .. max inclusive. -/
  | range (min max : Nat)
deriving DecidableEq, Repr

/-- A ParameterDescriptor (R100). `displayFormat` is read by no rule of the block. -/
structure Descriptor where
  name : String
  domain : Domain
  displayFormat : String
  byteOffset : Nat
  bitWidth : Nat
  bitShift : Nat
  preserveMask : Byte
deriving DecidableEq, Repr

/-- One element (a, d) of PRE_BURST or POST_BURST, emitted as `Write(a, d)` (R55). -/
structure SingleWrite where
  addr : Byte
  data : Byte
deriving DecidableEq, Repr

/-- An event of INIT_PROGRAM: a Write, a ResetPulse or a Delay; it contains no Burst (R133). The delay is a whole
number of milliseconds (R51; DESIGN CHOICE: the spec does not say whether it may be a fraction, log entry 5). -/
inductive SetupEvent where
  | write (addr data : Byte)
  | resetPulse
  | delay (ms : Nat)
deriving DecidableEq, Repr

/-- The configuration parameters of the block (R9, R33). No command changes them. -/
structure Config where
  /-- DG, the general descriptors (R100). -/
  dg : List Descriptor
  /-- DO, the operator descriptors, each applied to all four operators (R100). -/
  dop : List Descriptor
  /-- PARAM_INIT.G: the reset value of each general parameter (R38). -/
  paramInitG : List Byte
  /-- PARAM_INIT.O: the reset values of the operator parameters, per operator (R38). -/
  paramInitO : Vector (List Byte) 4
  /-- PITCH_HI (R151). -/
  pitchHi : Vector Byte 128
  /-- PITCH_LO (R151). -/
  pitchLo : Vector Byte 128
  /-- REG_VSEL, the voice-select register (R56, R130). -/
  regVsel : Byte
  /-- REG_VEL, the velocity register (R56, R130). -/
  regVel : Byte
  /-- REG_PHI, the pitch-high register (R56, R130). -/
  regPhi : Byte
  /-- REG_PLO, the pitch-low register (R56, R130). -/
  regPlo : Byte
  /-- HDR, the voice-burst header (R109). -/
  hdr : Vector Byte 2
  /-- TRL, the voice-burst trailer (R109). -/
  trl : Vector Byte 4
  /-- PRE_BURST, the writes before every burst (R55). -/
  preBurst : List SingleWrite
  /-- POST_BURST, the writes after every burst (R55). -/
  postBurst : List SingleWrite
  /-- INIT_PROGRAM, what SETUP emits (R132, R133). -/
  initProgram : List SetupEvent
  /-- AGE_ALL_ON_ALLOC (R8, R156; the spec's value is true). -/
  ageAllOnAlloc : Bool
deriving DecidableEq, Repr

/-! ### The spec's test configuration TCFG (95_test_vectors.md section 0)

Every domain is `Count(2^width)`. These values are the spec's test defaults, not the chip's. -/

/-- One row of TCFG's descriptor table: the domain is `Count(2^width)`. -/
def Config.tcfgRow (name : String) (byteOffset bitWidth bitShift : Nat) (preserveMask : Byte) : Descriptor :=
  { name, domain := .count (2 ^ bitWidth), displayFormat := "", byteOffset, bitWidth, bitShift, preserveMask }

/-- TCFG's DG, NG = 3. -/
def Config.tcfgGeneral : List Descriptor :=
  [ tcfgRow "BO" 0 2 0 0xFC, tcfgRow "LFO" 1 2 6 0x3F, tcfgRow "ALG" 1 3 0 0xF8 ]

/-- TCFG's DO, NO = 17. -/
def Config.tcfgOperator : List Descriptor :=
  [ tcfgRow "SR" 2 4 4 0x0F, tcfgRow "XOF" 2 1 3 0xF7, tcfgRow "KSR" 2 1 0 0xFE,
    tcfgRow "RR" 3 4 4 0x0F, tcfgRow "DR" 3 4 0 0xF0, tcfgRow "AR" 4 4 4 0x0F,
    tcfgRow "SL" 4 4 0 0xF0, tcfgRow "TL" 5 6 2 0x03, tcfgRow "KSL" 5 2 0 0xFC,
    tcfgRow "DAM" 6 2 5 0x9F, tcfgRow "EAM" 6 1 4 0xEF, tcfgRow "DVB" 6 2 1 0xF9,
    tcfgRow "EVB" 6 1 0 0xFE, tcfgRow "MULTI" 7 4 4 0x0F, tcfgRow "DT" 7 3 0 0xF8,
    tcfgRow "WS" 8 5 3 0x07, tcfgRow "FB" 8 3 0 0xF8 ]

/-- TCFG, the configuration of the spec's vectors; `State.reset` uses it (DESIGN CHOICE, log entry 1). -/
def Config.tcfg : Config where
  dg := tcfgGeneral
  dop := tcfgOperator
  paramInitG := List.replicate 3 0
  paramInitO := Vector.replicate 4 (List.replicate 17 0)
  pitchHi := Vector.ofFn fun i => BitVec.ofNat 8 (i.val / 12)
  pitchLo := Vector.ofFn fun i => BitVec.ofNat 8 (i.val % 12)
  regVsel := 0x0B
  regVel := 0x0C
  regPhi := 0x0D
  regPlo := 0x0E
  hdr := #v[0x07, 0x90]
  trl := #v[0x80, 0x03, 0x81, 0x80]
  preBurst := [⟨0x08, 0xF6⟩]
  postBurst := [⟨0x08, 0x00⟩]
  initProgram := [.resetPulse, .delay 1, .write 0x1D 0x00]
  ageAllOnAlloc := true

end Sys2Proof
end

