-- ==== Sys2Proof/Machine/State.lean ====
section
/-! DEFINITION. The state of the block (10_state.md R20 to R38), the reasons a step can stop, and reset (R38, R240). -/

namespace Sys2Proof.Machine

/-- The state ST of a voice slot (R24). -/
inductive SlotState where
  /-- The slot holds no note. -/
  | free
  /-- The slot is sounding its note. -/
  | active
  /-- The slot received a note-off; its note is kept but no rule compares it (R24, the source's sentinel). -/
  | aging
deriving DecidableEq, Repr

/-- A voice slot SLOT[k] (R24). -/
structure Slot where
  st : SlotState
  note : Byte
  age : Age
deriving DecidableEq, Repr

/-- SLOT[k] at reset: Free, NOTE 0x00, AGE 0 (R38). -/
def Slot.blank : Slot := { st := .free, note := 0, age := 0 }

/-- The register STATUS by its fields (R29). Its 32-bit word, whose reserved bits read 0, is `Status.word`
(Machine/Flags.lean). -/
structure Status where
  /-- INIT_DONE, bit 0: SETUP has completed since reset (R30). -/
  initDone : Bool
  /-- FAULT, bit 1: the block is in the fault state (R31). -/
  fault : Bool
  /-- INEXACT, bit 2: the last COEFENC or EQWR discarded a nonzero remainder (R32). -/
  inexact : Bool
  /-- FCODE, bits 7:4: the fault code when FAULT = 1, else 0 (R29, R210). -/
  fcode : BitVec 4
deriving DecidableEq, Repr

/-- STATUS at reset: 0x00000000 (R38). -/
def Status.clear : Status := { initDone := false, fault := false, inexact := false, fcode := 0 }

/-- A bus event of the output history HIST (20_memory.md R51). -/
inductive BusEvent where
  /-- `Write(a, d)`: a single register write. -/
  | write (addr data : Byte)
  /-- `Burst(bs)`: a burst write of the bytes `bs`, the first of which is the chip register address. -/
  | burst (bytes : List Byte)
  /-- `ResetPulse`: a pulse on the chip's reset line. -/
  | resetPulse
  /-- `Delay(t)`: a wait of at least `t` milliseconds before the next event. -/
  | delay (ms : Nat)
deriving DecidableEq, Repr

/-- The fault causes of 60_exceptions.md R210. -/
inductive FaultCode where
  | reservedOpcode
  | reservedBits
  | descRange
  | eqUnitRange
  | notInitialized
  | coeffNonfinite
deriving DecidableEq, Repr

/-- The state of the block.

`pvG` to `hist` are the architectural state of R20. `cfg`, `port` and `resetLine` are the model's own fields: the
configuration (R33: not state, no command changes it), the command words the issuers have presented and the block has not
consumed yet (R50, R63), and the reset input (R240). -/
structure State where
  /-- The configuration the block was built with (R9, R33). -/
  cfg : Config
  /-- PV_G, one value per general descriptor (R21). -/
  pvG : List Byte
  /-- PV_O, per operator one value per operator descriptor (R22). -/
  pvO : Vector (List Byte) 4
  /-- FB, the frame buffer (R23). -/
  fb : Frame
  /-- SLOT, the sixteen voice slots (R24). -/
  slots : Vector Slot 16
  /-- LAST_VOICE (R27). -/
  lastVoice : Voice
  /-- CODE (R28). -/
  code : Code
  /-- STATUS (R29). -/
  status : Status
  /-- HIST, the bus events emitted since reset, oldest first (R34). -/
  hist : List BusEvent
  /-- The command stream at the command port: the words not consumed yet, next one first (R50, R75). -/
  port : List Word
  /-- The reset input is asserted (R240). -/
  resetLine : Bool
deriving DecidableEq, Repr

/-- Why the machine would stop with a fault: never. Every fault of R210 is taken as R212 describes it, which gives a
next state, and a faulted block goes on consuming commands (R213); so no constructor is needed, and that no step ends in
a fault holds by the type. -/
inductive Fault where
deriving DecidableEq, Repr

/-- Why the model refuses to give a step. -/
inductive Refusal where
  /-- The configuration fails R101 or R223, so no block exists for it and no command has a meaning. Raised by `step`
  alone. Safe: the spec refuses the configuration (R223). -/
  | configRefused
  /-- The instruction has no meaning in this model yet. Raised by no arm of `exec`. Safe. -/
  | notModelled (mnemonic : String)
deriving DecidableEq, Repr

/-- The block right after reset with configuration `c`: every element at its value of R38, the reset input low, and no
command word presented yet. -/
def State.resetWith (c : Config) : State where
  cfg := c
  pvG := c.paramInitG
  pvO := c.paramInitO
  fb := Vector.replicate 30 0
  slots := Vector.replicate 16 Slot.blank
  lastVoice := 0
  code := 0
  status := Status.clear
  hist := []
  port := []
  resetLine := false

/-- The block right after reset, in the spec's test configuration TCFG. The spec leaves the configuration open;
DESIGN CHOICE, log entry 1. Statements are made about `State.resetWith c` for every admitted `c`. -/
def State.reset : State := State.resetWith Config.tcfg

end Sys2Proof.Machine
end

