-- ==== Sys2Proof/Machine/Flags.lean ====
section
/-! DEFINITION. STATUS: its fields, its 32-bit word, and the only ways it changes (10_state.md R29 to R32). -/

namespace Sys2Proof.Machine

/-- FCODE of each fault (R210). -/
def FaultCode.fcode : FaultCode → BitVec 4
  | .reservedOpcode => 1
  | .reservedBits => 2
  | .descRange => 3
  | .eqUnitRange => 4
  | .notInitialized => 5
  | .coeffNonfinite => 6

/-- The STATUS register as a 32-bit word: INIT_DONE in bit 0, FAULT in bit 1, INEXACT in bit 2, FCODE in bits 7:4, every
other bit 0 (R29). -/
def Status.word (st : Status) : Word :=
  0#24 ++ st.fcode ++ 0#1 ++ BitVec.ofBool st.inexact ++ BitVec.ofBool st.fault ++ BitVec.ofBool st.initDone

/-- `STATUS.INIT_DONE <- 1` (R30, R132). -/
def Status.withInitDone (st : Status) : Status := { st with initDone := true }

/-- `STATUS.INEXACT <- b` (R32, R189, R191). -/
def Status.withInexact (b : Bool) (st : Status) : Status := { st with inexact := b }

/-- `STATUS.FAULT <- 1` and `STATUS.FCODE <- code` (R212). -/
def Status.withFault (c : FaultCode) (st : Status) : Status := { st with fault := true, fcode := c.fcode }

/-- The 2-bit code of a slot state in the readout (R25). -/
def SlotState.code : SlotState → BitVec 2
  | .free => 0b00
  | .active => 0b01
  | .aging => 0b10

end Sys2Proof.Machine
end

