-- ==== Sys2Proof/Machine/Operands.lean ====
section
/-! DEFINITION. How operands are read: the bit fields of a descriptor (41_frame_packer.md R102), a parameter's place in
the frame (R103), voice and slot numbers, and a binary64 operand as the exact number it denotes (00_scope.md R11,
44_coeff_codec.md R181 to R183). -/

namespace Sys2Proof.Machine

/-! ### Descriptor masks (R102) -/

/-- `vmask(d) = 2^bit_width - 1` (R102). -/
def vmask (d : Descriptor) : Byte := BitVec.ofNat 8 (2 ^ d.bitWidth - 1)

/-- `fmask(d) = (vmask(d) << bit_shift) & 0xFF` (R102). -/
def fmask (d : Descriptor) : Byte := vmask d <<< d.bitShift

/-- `pmask(d) = preserve_mask` (R102). -/
def pmask (d : Descriptor) : Byte := d.preserveMask

/-- The value's field bits, moved to their place: `((v & vmask(d)) << bit_shift) & 0xFF` (R102, R106;
90_conflicts.md C6). -/
def fieldBits (d : Descriptor) (v : Byte) : Byte := (v &&& vmask d) <<< d.bitShift

/-- The value lies in the descriptor's domain (R100). -/
def inDomain (d : Descriptor) (v : Byte) : Bool :=
  match d.domain with
  | .count c => decide (v.toNat < c)
  | .range lo hi => decide (lo ≤ v.toNat ∧ v.toNat ≤ hi)

/-! ### Placements (R103) -/

/-- The frame byte that operator `k`'s placement of descriptor `d` addresses (R103). -/
def operatorByte (d : Descriptor) (k : Fin 4) : Nat := d.byteOffset + Config.opStride * k.val

/-- Where one parameter value goes in the frame: the byte, the descriptor that gives its field, and the value (R103). -/
structure Placement where
  byte : Nat
  desc : Descriptor
  value : Byte
deriving DecidableEq, Repr

/-! ### Voices and slots -/

/-- The voice index of slot `k`, as written on the bus and into LAST_VOICE (R152, R158). -/
def voiceOfSlot (k : SlotIx) : Voice := BitVec.ofNat 4 k.val

/-- The pitch-table index of a note: `n mod 127` (R151). -/
def pitchIndex (note : Byte) : Fin 128 :=
  ⟨note.toNat % Config.noteMod, Nat.lt_of_lt_of_le (Nat.mod_lt _ (by decide)) (by decide)⟩

/-! ### Binary64 operands (R11, R181)

The magnitude of a finite operand is an integer multiple of 2^-1074, so it is held exactly as that multiple. -/

/-- Bit 63, the sign bit of the pattern (93_implementation_defined.md K2). -/
def b64SignBit (x : Binary64) : Bool := x.getLsbD 63

/-- Bits 62:52, the exponent field (R181). -/
def b64Exponent (x : Binary64) : BitVec 11 := x.extractLsb' 52 11

/-- Bits 51:0, the fraction field (93_implementation_defined.md K2). -/
def b64Fraction (x : Binary64) : BitVec 52 := x.extractLsb' 0 52

/-- `x` is a NaN or an infinity: its exponent field is 0x7FF (R181). -/
def b64NonFinite (x : Binary64) : Bool := b64Exponent x == 0x7FF

/-- The number 1 in units of 2^-1074: 2^1074 (written as a shift, which `decide` evaluates). -/
def b64One : Nat := 1 <<< 1074

/-- `m = |x|` of a finite operand, exactly, in units of 2^-1074 (R11, R183): a subnormal's fraction field as it
stands, a normal number's 53-bit significand scaled by its exponent. -/
def b64Magnitude (x : Binary64) : Nat :=
  let e := (b64Exponent x).toNat
  let f := (b64Fraction x).toNat
  if e = 0 then f else (2 ^ 52 + f) <<< (e - 1)

/-- `neg = (x < 0)`, compared exactly: -0.0 is not negative (R182). -/
def b64Negative (x : Binary64) : Bool := b64SignBit x && decide (b64Magnitude x ≠ 0)

/-- The exact rational a finite operand denotes (R11). It states properties; no command computes it. -/
def b64Value (x : Binary64) : ℚ :=
  (if b64SignBit x then -1 else 1) * ((b64Magnitude x : ℚ) / 2 ^ 1074)

end Sys2Proof.Machine
end

