-- ==== Sys2Proof/Machine/Ops.lean ====
section
/-! DEFINITION. The named operations over the state: the register files, the output history (20_memory.md R51 to R55),
taking a fault and leaving the fault state (60_exceptions.md R212 to R214), how a command runs (R60, R211), the note-event
writes (42_note_event_setup.md R130), the readout port (10_state.md R36), and the command port (R50, R63). -/

namespace Sys2Proof.Machine

/-- What a step or a meaning answers. -/
abbrev StepResult := Host.Outcome State Fault Refusal

/-! ### Register files and result registers -/

/-- PV_G[i] (R21); 0 beyond the register file, which no rule reads. -/
def State.paramG (s : State) (i : Nat) : Byte := s.pvG.getD i 0

/-- PV_O[k][j] (R22); 0 beyond the register file, which no rule reads. -/
def State.paramO (s : State) (k : Fin 4) (j : Nat) : Byte := s.pvO[k].getD j 0

/-- `PV_G[i] <- v` (R104). -/
def State.setParamG (i : Nat) (v : Byte) (s : State) : State := { s with pvG := s.pvG.set i v }

/-- `PV_O[k][j] <- v` (R105). -/
def State.setParamO (k : Fin 4) (j : Nat) (v : Byte) (s : State) : State :=
  { s with pvO := s.pvO.set k.val (s.pvO[k].set j v) k.isLt }

/-- `FB <- f` (R108, R110). -/
def State.setFb (f : Frame) (s : State) : State := { s with fb := f }

/-- `SLOT <- v`, all sixteen slots. -/
def State.setSlots (v : Vector Slot 16) (s : State) : State := { s with slots := v }

/-- `SLOT[k] <- sl` (R153, R158, R160). -/
def State.setSlot (k : SlotIx) (sl : Slot) (s : State) : State :=
  { s with slots := s.slots.set k.val sl k.isLt }

/-- `LAST_VOICE <- v` (R158). -/
def State.setLastVoice (v : Voice) (s : State) : State := { s with lastVoice := v }

/-- `CODE <- c` (R189). -/
def State.setCode (c : Code) (s : State) : State := { s with code := c }

/-- `STATUS.INIT_DONE <- 1` (R132). -/
def State.setInitDone (s : State) : State := { s with status := s.status.withInitDone }

/-- `STATUS.INEXACT <- b` (R189, R191). -/
def State.setInexact (b : Bool) (s : State) : State := { s with status := s.status.withInexact b }

/-- The words left at the command port (R50). -/
def State.setPort (ws : List Word) (s : State) : State := { s with port := ws }

/-! ### Bus events -/

/-- Emit the events `evs` in order: they are appended to HIST (R12, R34, R51). -/
def State.emitAll (evs : List BusEvent) (s : State) : State := { s with hist := s.hist ++ evs }

/-- The bytes one event puts on the bus in its one transaction, first byte first: a Write is the two bytes [a, d], a
Burst its bytes in list order; ResetPulse and Delay carry none (R52, R53, R57). -/
def BusEvent.wireBytes : BusEvent → List Byte
  | .write a d => [a, d]
  | .burst bs => bs
  | .resetPulse => []
  | .delay _ => []

/-- One element of PRE_BURST or POST_BURST as an event (R55). -/
def writeEvent (w : SingleWrite) : BusEvent := .write w.addr w.data

/-- The burst group `PRE_BURST ++ [Burst(bs)] ++ POST_BURST` (R55). -/
def burstGroup (c : Config) (bs : List Byte) : List BusEvent :=
  c.preBurst.map writeEvent ++ [.burst bs] ++ c.postBurst.map writeEvent

/-- `note_event(v, hi, lo, vel)`: the register writes of a note-off (velocity 0) or of a note-on, strobe last (R130). -/
def noteEventWrites (c : Config) (v : Voice) (hi lo : Byte) (vel : Velocity) : List BusEvent :=
  if vel = 0#7 then [.write Config.regKey (v.setWidth 8)]
  else
    [ .write c.regVsel (v.setWidth 8),
      .write c.regVel (vel.setWidth 8 &&& Config.velMask),
      .write c.regPhi hi,
      .write c.regPlo lo,
      .write Config.regKey (Config.keyonBit ||| v.setWidth 8) ]

/-! ### Taking a fault, and the only way out of the fault state -/

/-- Fault entry, `raise Fault(code)` in a block with FAULT = 0: FAULT and FCODE are written and nothing else changes
(R212). In the fault state nothing changes: FCODE keeps the code of the first fault (R213). -/
def State.raiseFault (code : FaultCode) (s : State) : State :=
  if s.status.fault then s else { s with status := s.status.withFault code }

/-- The reset event: every state element goes to its value of R38 and a new history epoch starts (R240); the only way out
of the fault state (R214). The words at the command port are the issuers' (R35) and stay; the reset input is low
afterwards. -/
def State.takeReset (s : State) : State := { State.resetWith s.cfg with port := s.port }

/-- The fault an illegal command word raises (R86, R87). -/
def illegalWordFault : IllegalWord → FaultCode
  | .reservedOpcode => .reservedOpcode
  | .reservedBits => .reservedBits

/-! ### How a command runs -/

/-- Run a command's body. In the fault state the command has no effect (R213). A body that raises a fault leaves
everything as it was before the command and enters the fault state (R212); a body that completes gives its whole effect
at once (R60). -/
def runCommand (body : State → Except FaultCode State) (s : State) : StepResult :=
  if s.status.fault then .next s
  else
    match body s with
    | .ok t => .next t
    | .error code => .next (s.raiseFault code)

/-- The gate `if STATUS.INIT_DONE = 0: raise Fault(NOT_INITIALIZED)` before a body (R30, R210, R242). -/
def requireInit (body : State → Except FaultCode State) (s : State) : Except FaultCode State :=
  if s.status.initDone then body s else .error .notInitialized

/-! ### The readout port (R36, R37) -/

/-- The word at 0x0200 + 2k: NOTE in bits 15:8, the ST code in bits 1:0 (R36). -/
def Slot.noteWord (sl : Slot) : Word := 0#16 ++ sl.note ++ 0#6 ++ sl.st.code

/-- The value the readout port returns for readout address `ra`. A readout is a function of the state and changes none
(R36, R37). -/
def State.readout (s : State) (ra : BitVec 16) : Word :=
  let a := ra.toNat
  if a = 0x0000 then s.status.word
  else if a = 0x0001 then s.code.setWidth 32
  else if a = 0x0002 then s.lastVoice.setWidth 32
  else if a < 0x0100 then 0
  else if a < 0x0200 then (s.fb[a - 0x0100]?.getD 0).setWidth 32
  else if a < 0x0300 then
    match s.slots[(a - 0x0200) / 2]? with
    | some sl => if a % 2 = 0 then sl.noteWord else sl.age
    | none => 0
  else if a < 0x0400 then
    if a - 0x0300 < s.cfg.dg.length then (s.paramG (a - 0x0300)).setWidth 32 else 0
  else if h : (a - 0x0400) / 0x0100 < 4 then
    if (a - 0x0400) % 0x0100 < s.cfg.dop.length then
      (s.paramO ⟨(a - 0x0400) / 0x0100, h⟩ ((a - 0x0400) % 0x0100)).setWidth 32
    else 0
  else 0

/-! ### The command port -/

/-- What the decoder finds at the command port (R50, R63, R64). -/
def State.nextCommand (s : State) : Decoded := decode s.port

end Sys2Proof.Machine
end

