-- ==== Sys2Proof/Machine/CoeffCodec.lean ====
section
/-! DEFINITION. The IIR coefficient encoder and the equalizer write: COEFENC, EQWR (44_coeff_codec.md). -/

namespace Sys2Proof.Machine

/-! ### The coefficient code (R180 to R188) -/

/-- The integer field `I = floor(m) mod 8` of a magnitude in units of 2^-1074 (R183). -/
def integerField (m : Nat) : BitVec 3 := BitVec.ofNat 3 (m / b64One)

/-- The repeated doubling of R184, `n` bits of it: the remainder `r` (in units of 2^-1074) is doubled, a bit is taken off
when it reaches 1, and the bits are shifted into `f` from below. Answers the bits and the last remainder. -/
def doubleOut (n : Nat) (r : Nat) (f : BitVec 20) : BitVec 20 × Nat :=
  match n with
  | 0 => (f, r)
  | n + 1 =>
    if 2 * r ≥ b64One then doubleOut n (2 * r - b64One) ((f <<< 1) ||| 1)
    else doubleOut n (2 * r) (f <<< 1)

/-- The fraction expansion of a magnitude: the 20 bits after the binary point, and the remainder truncation discards
(R184). -/
def fractionExpansion (m : Nat) : BitVec 20 × Nat := doubleOut 20 (m % b64One) 0

/-- The carry loop of R185 from bit `i` on, `n` bits of it: a 1 bit is cleared and the carry goes on, the first 0 bit is
set and the carry ends; a carry out of the last bit is discarded. -/
def carryFrom (n i : Nat) (b : Code) : Code :=
  match n with
  | 0 => b
  | n + 1 => if b.getLsbD i then carryFrom n (i + 1) (b &&& ~~~(1#24 <<< i)) else b ||| (1#24 <<< i)

/-- The code word of a sign, an integer field and a fraction field: `{0, I, F}`, or `{1, ~I, ~F}` plus one by carry
propagation along the whole string (R185). -/
def codeWord (neg : Bool) (i : BitVec 3) (f : BitVec 20) : Code :=
  if neg then carryFrom 24 0 (1#1 ++ ~~~i ++ ~~~f) else 0#1 ++ i ++ f

/-- `coeff_encode(x)`: the code and the inexact flag, or COEFF_NONFINITE (R181 to R186). -/
def coeffEncode (x : Binary64) : Except FaultCode (Code × Bool) :=
  if b64NonFinite x then .error .coeffNonfinite
  else
    let m := b64Magnitude x
    let fr := fractionExpansion m
    .ok (codeWord (b64Negative x) (integerField m) fr.1, decide (fr.2 ≠ 0))

/-- `bytes(C) = [C[23:16], C[15:8], C[7:0]]` (R188). -/
def codeBytes (c : Code) : List Byte := [c.extractLsb' 16 8, c.extractLsb' 8 8, c.extractLsb' 0 8]

/-- `coeff_decode(C) = sext_24(C) / 2^20`, an exact rational (R192). It states properties; no command computes it. -/
def coeffDecode (c : Code) : ℚ := (c.toInt : ℚ) / 2 ^ 20

/-- `eq_frame(u, C0..C4) = [32 + u] ++ bytes(C0) ++ ... ++ bytes(C4)` (R190). -/
def eqFrame (u : BitVec 2) (c0 c1 c2 c3 c4 : Code) : List Byte :=
  (Config.eqAddr + u.setWidth 8) ::
    (codeBytes c0 ++ codeBytes c1 ++ codeBytes c2 ++ codeBytes c3 ++ codeBytes c4)

/-! ### Command bodies and meanings -/

/-- COEFENC's pseudocode: `CODE <- c`, `STATUS.INEXACT <- inx`; a non-finite operand raises COEFF_NONFINITE (R189). -/
def coefencBody (x : Binary64) (s : State) : Except FaultCode State := do
  let r ← coeffEncode x
  return (s.setCode r.1).setInexact r.2

/-- EQWR's pseudocode after its range and INIT_DONE checks: all five operands are converted before the first event, then
the burst group is emitted and INEXACT takes the OR of the five flags (R191). -/
def eqwrEffect (unit : BitVec 2) (b0 b1 b2 a1 a2 : Binary64) (s : State) : Except FaultCode State := do
  let r0 ← coeffEncode b0
  let r1 ← coeffEncode b1
  let r2 ← coeffEncode b2
  let r3 ← coeffEncode a1
  let r4 ← coeffEncode a2
  return (s.emitAll (burstGroup s.cfg (eqFrame unit r0.1 r1.1 r2.1 r3.1 r4.1))).setInexact
    (r0.2 || r1.2 || r2.2 || r3.2 || r4.2)

/-- EQWR's pseudocode: a unit of 3 raises EQ_UNIT_RANGE before INIT_DONE is looked at (R88, R191, R211). -/
def eqwrBody (unit : BitVec 2) (b0 b1 b2 a1 a2 : Binary64) (s : State) : Except FaultCode State :=
  if unit.toNat < 3 then requireInit (eqwrEffect unit b0 b1 b2 a1 a2) s else .error .eqUnitRange

/-- COEFENC: convert one coefficient (R189). -/
def execCoefenc (x : Binary64) (s : State) : StepResult := runCommand (coefencBody x) s

/-- EQWR: encode five coefficients and write one equalizer unit (R191). -/
def execEqwr (unit : BitVec 2) (b0 b1 b2 a1 a2 : Binary64) (s : State) : StepResult :=
  runCommand (eqwrBody unit b0 b1 b2 a1 a2) s

end Sys2Proof.Machine
end

