-- ==== Sys2Proof/Machine/FramePacker.lean ====
section
/-! DEFINITION. The parameter store and the register-frame bit-packer: PWRG, PWRO, ENCFRAME, SENDFRAME
(41_frame_packer.md). -/

namespace Sys2Proof.Machine

/-! ### The frame encoder function (R106, R107, R109) -/

/-- The placements in the encoder's order: the general descriptors in table order, then the operator descriptors in table
order with the operator index inner (R103, R106). -/
def placements (dg dop : List Descriptor) (pvG : List Byte) (pvO : Vector (List Byte) 4) : List Placement :=
  dg.zipIdx.map (fun di => { byte := di.1.byteOffset, desc := di.1, value := pvG.getD di.2 0 }) ++
    dop.zipIdx.flatMap fun dj => (List.finRange 4).map fun k =>
      { byte := operatorByte dj.1 k, desc := dj.1, value := pvO[k].getD dj.2 0 }

/-- `f[n] <- (f[n] & pmask(d)) | (((v & vmask(d)) << d.bit_shift) & 0xFF)` (R106). A byte outside the frame, which W2
rules out, is left alone. -/
def packField (f : Frame) (p : Placement) : Frame :=
  f.setIfInBounds p.byte ((f[p.byte]?.getD 0 &&& pmask p.desc) ||| fieldBits p.desc p.value)

/-- `encode_voice_frame()`, from DG, DO, PV_G and PV_O only, starting from 30 bytes of 0x00 (R106). -/
def encodeVoiceFrame (dg dop : List Descriptor) (pvG : List Byte) (pvO : Vector (List Byte) 4) : Frame :=
  (placements dg dop pvG pvO).foldl packField (Vector.replicate 30 0)

/-- The frame of the current parameter values (R106). -/
def State.voiceFrame (s : State) : Frame := encodeVoiceFrame s.cfg.dg s.cfg.dop s.pvG s.pvO

/-- `decode_field` for a general descriptor (R107). It states properties; no command computes it. -/
def decodeGeneralField (f : Frame) (d : Descriptor) : Byte :=
  ((f[d.byteOffset]?.getD 0) >>> d.bitShift) &&& vmask d

/-- `decode_field` for an operator descriptor and operator `k` (R107). -/
def decodeOperatorField (f : Frame) (d : Descriptor) (k : Fin 4) : Byte :=
  ((f[operatorByte d k]?.getD 0) >>> d.bitShift) &&& vmask d

/-- `voice_payload(f) = HDR ++ rep(16, f) ++ TRL` (R109). -/
def voicePayload (c : Config) (f : Frame) : List Byte :=
  c.hdr.toList ++ (List.replicate Config.voiceCopies f.toList).flatten ++ c.trl.toList

/-! ### Command bodies -/

/-- PWRG's pseudocode: `if IDX >= NG: raise Fault(DESC_RANGE)`, else `PV_G[IDX] <- VAL`. The value is not checked against
the domain (R104). -/
def pwrgBody (idx val : Byte) (s : State) : Except FaultCode State :=
  if idx.toNat < s.cfg.dg.length then .ok (s.setParamG idx.toNat val) else .error .descRange

/-- PWRO's pseudocode: `if IDX >= NO: raise Fault(DESC_RANGE)`, else `PV_O[OPI][IDX] <- VAL` (R105). -/
def pwroBody (idx : Byte) (opi : BitVec 2) (val : Byte) (s : State) : Except FaultCode State :=
  if idx.toNat < s.cfg.dop.length then .ok (s.setParamO opi.toFin idx.toNat val) else .error .descRange

/-- ENCFRAME's pseudocode: `FB <- encode_voice_frame()` (R108). -/
def encframeBody (s : State) : Except FaultCode State := .ok (s.setFb s.voiceFrame)

/-- SENDFRAME's pseudocode: with INIT_DONE set, FB takes the frame of the current parameter values and the burst group of
its payload is emitted (R110). -/
def sendframeBody : State → Except FaultCode State :=
  requireInit fun s =>
    .ok ((s.setFb s.voiceFrame).emitAll (burstGroup s.cfg (voicePayload s.cfg s.voiceFrame)))

/-! ### Meanings -/

/-- PWRG: write a general parameter value (R104). -/
def execPwrg (idx val : Byte) (s : State) : StepResult := runCommand (pwrgBody idx val) s

/-- PWRO: write an operator parameter value (R105). -/
def execPwro (idx : Byte) (opi : BitVec 2) (val : Byte) (s : State) : StepResult :=
  runCommand (pwroBody idx opi val) s

/-- ENCFRAME: encode the voice frame into FB (R108). -/
def execEncframe (s : State) : StepResult := runCommand encframeBody s

/-- SENDFRAME: encode the voice frame and send it as a burst (R110). -/
def execSendframe (s : State) : StepResult := runCommand sendframeBody s

end Sys2Proof.Machine
end

