-- ==== Sys2Proof/Machine/NoteSetup.lean ====
section
/-! DEFINITION. The raw note event and the chip setup: NOTEEV, SETUP (42_note_event_setup.md). -/

namespace Sys2Proof.Machine

/-- An event of INIT_PROGRAM as a bus event (R132, R133). -/
def setupEvent : SetupEvent → BusEvent
  | .write a d => .write a d
  | .resetPulse => .resetPulse
  | .delay t => .delay t

/-- NOTEEV's pseudocode: with INIT_DONE set, the writes of `note_event(VOICE, HI, LO, VEL)`; the allocator is bypassed
(R131). -/
def noteevBody (voice : Voice) (hi lo : Byte) (vel : Velocity) : State → Except FaultCode State :=
  requireInit fun s => .ok (s.emitAll (noteEventWrites s.cfg voice hi lo vel))

/-- SETUP's pseudocode: emit INIT_PROGRAM, then `STATUS.INIT_DONE <- 1`; not gated by INIT_DONE (R132). -/
def setupBody (s : State) : Except FaultCode State :=
  .ok (s.emitAll (s.cfg.initProgram.map setupEvent)).setInitDone

/-- NOTEEV: raw note event (R131). -/
def execNoteev (voice : Voice) (hi lo : Byte) (vel : Velocity) (s : State) : StepResult :=
  runCommand (noteevBody voice hi lo vel) s

/-- SETUP: issue the chip initialisation program (R132). -/
def execSetup (s : State) : StepResult := runCommand setupBody s

end Sys2Proof.Machine
end

