-- ==== Sys2Proof/Machine/VoiceAllocator.lean ====
section
/-! DEFINITION. The voice allocator: NOTEON, NOTEOFF and the steps they are built from (43_voice_allocator.md). -/

namespace Sys2Proof.Machine

/-- `sat_inc(a) = (a = 2^31 - 1) ? a : a + 1` (R26). -/
def satInc (a : Age) : Age := if a = Config.ageMax then a else a + 1

/-- The slot is Active and holds the note, compared unnormalised (R151, R153, R160). -/
def Slot.sounds (n : Byte) (sl : Slot) : Bool := sl.st == .active && sl.note == n

/-- What a slot sounding `n` becomes on a note-off: (Aging, n, 0) (R153, R160). -/
def Slot.released (n : Byte) : Slot := { st := .aging, note := n, age := 0 }

/-- What the selected slot becomes: (Active, n, 0) (R158). -/
def Slot.occupied (n : Byte) : Slot := { st := .active, note := n, age := 0 }

/-- Hardware note-off of slot `k`: the events of `note_event(k, 0, 0, 0)` (R152). -/
def hardwareNoteOff (c : Config) (k : SlotIx) : List BusEvent := noteEventWrites c (voiceOfSlot k) 0 0 0

/-! ### The steps of a note-on -/

/-- The slots the retrigger step matches, in ascending order: Active slots holding `n` (R153). -/
def soundingSlots (slots : Vector Slot 16) (n : Byte) : List SlotIx :=
  (List.finRange 16).filter fun k => slots[k].sounds n

/-- The slots after the retrigger step: each matching slot is (Aging, n, 0) (R153). -/
def retriggerSlots (slots : Vector Slot 16) (n : Byte) : Vector Slot 16 :=
  Vector.ofFn fun k => if slots[k].sounds n then Slot.released n else slots[k]

/-- The lowest-numbered Free slot, if there is one (R154). -/
def firstFree (slots : Vector Slot 16) : Option SlotIx :=
  (List.finRange 16).find? fun k => slots[k].st == .free

/-- SLOT[k].AGE as the signed integer it is (R26). -/
def slotAge (slots : Vector Slot 16) (k : SlotIx) : Int := slots[k].age.toInt

/-- One comparison of the age scan: `>` strictly replaces (R155). -/
def olderSlot (slots : Vector Slot 16) (sel k : SlotIx) : SlotIx :=
  if slotAge slots k > slotAge slots sel then k else sel

/-- The slot with the greatest age, ties going to the lowest index: scanned upwards from slot 0 (R155). -/
def oldestSlot (slots : Vector Slot 16) : SlotIx :=
  (List.finRange 16).tail.foldl (olderSlot slots) 0

/-- The selected slot, and whether it was selected by age (R154, R155, R156). -/
def selectSlot (slots : Vector Slot 16) : SlotIx × Bool :=
  match firstFree slots with
  | some k => (k, false)
  | none => (oldestSlot slots, true)

/-- The aging step: every slot but `sel` that is not Free ages by one, saturating (R156). -/
def ageOthers (slots : Vector Slot 16) (sel : SlotIx) : Vector Slot 16 :=
  Vector.ofFn fun k =>
    if k ≠ sel ∧ slots[k].st ≠ .free then { slots[k] with age := satInc slots[k].age } else slots[k]

/-- The slots as they stand when the selected slot is about to be occupied: the aging step is taken if
AGE_ALL_ON_ALLOC is true or the selection was by age (R156). -/
def agedSlots (c : Config) (slots : Vector Slot 16) (sel : SlotIx) (evict : Bool) : Vector Slot 16 :=
  if c.ageAllOnAlloc || evict then ageOthers slots sel else slots

/-- The retrigger note-offs, in ascending slot order (R153). -/
def retriggerNoteOffs (c : Config) (slots : Vector Slot 16) (n : Byte) : List BusEvent :=
  (soundingSlots slots n).flatMap (hardwareNoteOff c)

/-- The eviction note-off: only for a selected slot that is still Active (R157). -/
def evictionNoteOff (c : Config) (slots : Vector Slot 16) (sel : SlotIx) : List BusEvent :=
  if slots[sel].st == .active then hardwareNoteOff c sel else []

/-- The note-on writes for note `n` on slot `sel`, with the pitch bytes of entry `n mod 127` (R151, R158). -/
def noteOnWrites (c : Config) (sel : SlotIx) (n : Byte) (vel : Velocity) : List BusEvent :=
  noteEventWrites c (voiceOfSlot sel) c.pitchHi[pitchIndex n] c.pitchLo[pitchIndex n] vel

/-- The selected slot occupied by note `n` (R158). -/
def occupySlot (slots : Vector Slot 16) (sel : SlotIx) (n : Byte) : Vector Slot 16 :=
  slots.set sel.val (Slot.occupied n) sel.isLt

/-- Occupy and sound: with the selected slot and the slots after the aging step, the eviction note-off, the new slot
contents, LAST_VOICE, and the note-on writes (R157, R158). -/
def takeSlot (n : Byte) (vel : Velocity) (sel : SlotIx) (aged : Vector Slot 16) (s : State) : State :=
  (((s.emitAll (evictionNoteOff s.cfg aged sel)).setSlots (occupySlot aged sel n)).setLastVoice
    (voiceOfSlot sel)).emitAll (noteOnWrites s.cfg sel n vel)

/-- What a NOTEON with nonzero velocity does after the INIT_DONE check: retrigger (R153), select (R154, R155), age
(R156), evict, occupy and sound (R157, R158), as R159 composes them. -/
def noteOnEffect (n : Byte) (vel : Velocity) (s : State) : State :=
  match selectSlot (retriggerSlots s.slots n) with
  | (sel, evict) =>
    takeSlot n vel sel (agedSlots s.cfg (retriggerSlots s.slots n) sel evict)
      (s.emitAll (retriggerNoteOffs s.cfg s.slots n))

/-- `note_off_body(n)`: the lowest-numbered Active slot holding `n`, if there is one, gets its hardware note-off and
becomes (Aging, n, 0); otherwise nothing happens (R160). -/
def noteOffEffect (n : Byte) (s : State) : State :=
  match (List.finRange 16).find? fun k => s.slots[k].sounds n with
  | some k => (s.emitAll (hardwareNoteOff s.cfg k)).setSlot k (Slot.released n)
  | none => s

/-! ### Command bodies and meanings -/

/-- NOTEON's pseudocode: the INIT_DONE check, then a note-off for velocity 0 (R161) and a note-on otherwise (R159). -/
def noteonBody (note : Byte) (vel : Velocity) : State → Except FaultCode State :=
  requireInit fun s => .ok (if vel = 0#7 then noteOffEffect note s else noteOnEffect note vel s)

/-- NOTEOFF's pseudocode: the INIT_DONE check, then the note-off (R160). -/
def noteoffBody (note : Byte) : State → Except FaultCode State :=
  requireInit fun s => .ok (noteOffEffect note s)

/-- NOTEON: MIDI note-on (R159). -/
def execNoteon (note : Byte) (vel : Velocity) (s : State) : StepResult := runCommand (noteonBody note vel) s

/-- NOTEOFF: MIDI note-off (R160). -/
def execNoteoff (note : Byte) (s : State) : StepResult := runCommand (noteoffBody note) s

end Sys2Proof.Machine
end

