-- ==== Sys2Proof/Machine/Dispatch.lean ====
section
/-! DEFINITION. The meaning of each command: one arm per constructor of `Instr`, each one call of its meaning. -/

namespace Sys2Proof.Machine

def exec (i : Instr) (s : State) : Host.Outcome State Fault Refusal :=
  match i with
  -- 42_note_event_setup.md
  | .setup => Sys2Proof.Machine.execSetup s
  -- 41_frame_packer.md
  | .pwrg idx val => Sys2Proof.Machine.execPwrg idx val s
  | .pwro idx opi val => Sys2Proof.Machine.execPwro idx opi val s
  | .encframe => Sys2Proof.Machine.execEncframe s
  | .sendframe => Sys2Proof.Machine.execSendframe s
  -- 43_voice_allocator.md
  | .noteon note vel => Sys2Proof.Machine.execNoteon note vel s
  | .noteoff note => Sys2Proof.Machine.execNoteoff note s
  -- 42_note_event_setup.md
  | .noteev voice hi lo vel => Sys2Proof.Machine.execNoteev voice hi lo vel s
  -- 44_coeff_codec.md
  | .coefenc x => Sys2Proof.Machine.execCoefenc x s
  | .eqwr unit b0 b1 b2 a1 a2 => Sys2Proof.Machine.execEqwr unit b0 b1 b2 a1 a2 s

end Sys2Proof.Machine
end

