-- ==== Sys2Proof/Machine/Admission.lean ====
section
/-! DEFINITION. Which configurations are admitted: the checks W1 to W6 of 41_frame_packer.md R101, the list bound of
60_exceptions.md R223, and the shape of PARAM_INIT. -/

namespace Sys2Proof.Machine

/-- W1 (field fits a byte): `1 <= bit_width <= 8` and `bit_shift + bit_width <= 8` (R101). -/
def fieldFitsByte (d : Descriptor) : Bool :=
  decide (1 ≤ d.bitWidth ∧ d.bitWidth ≤ 8 ∧ d.bitShift + d.bitWidth ≤ 8)

/-- W2 for a general descriptor: `byte_offset <= 29` (R101). -/
def generalInFrame (d : Descriptor) : Bool := decide (d.byteOffset ≤ 29)

/-- W2 for an operator descriptor: `byte_offset + 7*3 <= 29` (R101). -/
def operatorInFrame (d : Descriptor) : Bool := decide (operatorByte d 3 ≤ 29)

/-- W3 (mask agrees with the field): `preserve_mask = 0xFF ^ fmask(d)` (R101). -/
def maskAgrees (d : Descriptor) : Bool := d.preserveMask == 0xFF ^^^ fmask d

/-- W5 (domain fits the field) (R101). -/
def domainFits (d : Descriptor) : Bool :=
  match d.domain with
  | .count c => decide (1 ≤ c ∧ c ≤ 2 ^ d.bitWidth)
  | .range lo hi => decide (lo ≤ hi ∧ hi ≤ 2 ^ d.bitWidth - 1)

/-- W1, W3 and W5 of one descriptor. -/
def descriptorOk (d : Descriptor) : Bool := fieldFitsByte d && maskAgrees d && domainFits d

/-- The byte and the field mask of every placement, general ones first (R103). -/
def fieldPlaces (c : Config) : List (Nat × Byte) :=
  c.dg.map (fun d => (d.byteOffset, fmask d)) ++
    c.dop.flatMap fun d => (List.finRange 4).map fun k => (operatorByte d k, fmask d)

/-- W4 (no overlap): two distinct placements at the same byte have disjoint field masks (R101). -/
def placesDisjoint (c : Config) : Bool :=
  decide ((fieldPlaces c).Pairwise fun p q => p.1 = q.1 → p.2 &&& q.2 = 0)

/-- W6 (names): names are unique within a list (R101). -/
def namesUnique (ds : List Descriptor) : Bool := decide (ds.map Descriptor.name).Nodup

/-- The descriptor lists pass R101 and have at most 256 entries each (R9, R223). -/
def descriptorsAdmitted (c : Config) : Bool :=
  decide (c.dg.length ≤ Config.maxDescriptors) && decide (c.dop.length ≤ Config.maxDescriptors) &&
  c.dg.all descriptorOk && c.dop.all descriptorOk &&
  c.dg.all generalInFrame && c.dop.all operatorInFrame &&
  placesDisjoint c && namesUnique c.dg && namesUnique c.dop

/-- PARAM_INIT has one value per parameter (R38; 92_eei_decisions.md D15). -/
def paramInitFits (c : Config) : Bool :=
  decide (c.paramInitG.length = c.dg.length) &&
  (List.finRange 4).all fun k => decide (c.paramInitO[k].length = c.dop.length)

/-- The configuration is admitted: a block exists for it (R101, R223). The other parameters have the shapes R9 asks for
by their types (128 pitch entries, 2 header bytes, 4 trailer bytes, no Burst in INIT_PROGRAM). -/
def configAdmitted (c : Config) : Bool := descriptorsAdmitted c && paramInitFits c

end Sys2Proof.Machine
end

