-- ==== Sys2Proof/WellFormed.lean ====
section
/-! DEFINITION. Which configurations and which commands the spec admits: 41_frame_packer.md R101 and 60_exceptions.md
R223 for a configuration, 30_encoding.md R88 for a command. -/

namespace Sys2Proof

/-- The configuration is admitted (R101, R223); the checks are in Machine/Admission.lean. -/
def Config.wellFormed (c : Config) : Bool := Machine.configAdmitted c

/-- The command's field values are in the ranges R88 asks for: a PWRG or PWRO index that names a descriptor, an equalizer
unit 0 to 2. A command outside them decodes, and raises DESC_RANGE or EQ_UNIT_RANGE when it is executed (R88, R211); an
assembler refuses it (R90). -/
def Instr.legal (c : Config) : Instr → Bool
  | .pwrg idx _ => decide (idx.toNat < c.dg.length)
  | .pwro idx _ _ => decide (idx.toNat < c.dop.length)
  | .eqwr unit _ _ _ _ _ => decide (unit.toNat < 3)
  | .setup | .encframe | .sendframe | .noteon _ _ | .noteoff _ | .noteev _ _ _ _ | .coefenc _ => true

end Sys2Proof
end

