-- ==== Sys2Proof/Machine/Step.lean ====
section
/-! DEFINITION. One step of the block: the reset input, or the next whole command of the command stream (20_memory.md
R60, R63; 60_exceptions.md R223; 70_reset_and_hazards.md R240). -/

namespace Sys2Proof.Machine

/-- One step.

A configuration that is not admitted has no block (R223). An asserted reset input takes the reset, between commands
(R240). Otherwise the next whole command is consumed and executed (R60); a command word that selects no command raises its
fault (R86, R87), which in the fault state changes nothing (R213). While no whole command has been presented the block is
idle and holds its state (R222; DEDUCED, log entry 3). -/
def step (s : State) : Host.Outcome State Fault Refusal :=
  if !s.cfg.wellFormed then .refused .configRefused
  else if s.resetLine then .next s.takeReset
  else
    match s.nextCommand with
    | .command i rest => exec i (s.setPort rest)
    | .illegal why rest => .next ((s.setPort rest).raiseFault (illegalWordFault why))
    | .incomplete => .next s

/-- The state with one command presented at the command port: exactly the words of the command whose low `nbits` bits are
`w` (spec/opcode_table.json's numbering), and the reset input low, so that the next step runs that command. -/
def State.withFetchWord (s : State) (nbits w : Nat) : State :=
  { s with port := tableWords nbits w, resetLine := false }

end Sys2Proof.Machine
end

