-- ==== Sys2Proof/Machine/Assembler.lean ====
section
/-! DEFINITION. The textual form of the commands and the pseudo-instructions that name a descriptor
(30_encoding.md R90, R91). No step of the block uses this file: it says which command words a line of text stands for. -/

namespace Sys2Proof.Machine

/-- What an assembler makes of one line (R90). -/
inductive AsmLine where
  /-- The line holds one command. -/
  | command (i : Instr)
  /-- The line holds nothing but blanks and a comment. -/
  | empty
  /-- The line is refused: no such command, a wrong operand, or an operand outside its range (R90, R91). -/
  | refused
deriving DecidableEq, Repr

/-! ### Characters and tokens -/

def isBlankChar (c : Char) : Bool := c == ' ' || c == '\t'

/-- The text without blanks at its two ends. -/
def trimBlanks (cs : List Char) : List Char :=
  ((cs.dropWhile isBlankChar).reverse.dropWhile isBlankChar).reverse

/-- The text before the first `;`, which starts a comment (R90). -/
def dropComment (cs : List Char) : List Char := cs.takeWhile (· != ';')

/-- The operands, separated by commas (R90), blanks around each removed; the text before the first comma is the first. -/
def splitOperands : List Char → List (List Char)
  | [] => [[]]
  | c :: cs =>
    if c == ',' then [] :: splitOperands cs
    else
      match splitOperands cs with
      | [] => [[c]]
      | first :: others => (c :: first) :: others

/-- The value of a digit in the base, if it is one; hexadecimal digits in either case (DESIGN CHOICE, log entry 8). -/
def digitValue (base : Nat) (c : Char) : Option Nat :=
  let n := c.toNat
  let v :=
    if 48 ≤ n ∧ n ≤ 57 then n - 48
    else if 65 ≤ n ∧ n ≤ 70 then n - 55
    else if 97 ≤ n ∧ n ≤ 102 then n - 87
    else base
  if v < base then some v else none

/-- The number a string of digits denotes, `acc` being the value of the digits before them; none if one is no digit. -/
def digitsValue (base : Nat) (acc : Nat) : List Char → Option Nat
  | [] => some acc
  | c :: cs =>
    match digitValue base c with
    | some d => digitsValue base (acc * base + d) cs
    | none => none

/-- A nonempty string of digits. -/
def parseDigits (base : Nat) (cs : List Char) : Option Nat :=
  if cs.isEmpty then none else digitsValue base 0 cs

/-- An integer operand: decimal, or `0x` hexadecimal (R90). -/
def parseInteger (cs : List Char) : Option Nat :=
  match cs with
  | '0' :: 'x' :: hex => parseDigits 16 hex
  | _ => parseDigits 10 cs

/-- An integer operand in the range 0 .. bound-1; one outside it is refused, not truncated (R90). -/
def parseBelow (bound : Nat) (cs : List Char) : Option Nat :=
  match parseInteger cs with
  | some n => if n < bound then some n else none
  | none => none

/-! ### Binary64 literals (R90)

A decimal or hexadecimal literal denotes a rational `num / den`; the operand is the binary64 nearest to it, ties to even
(93_implementation_defined.md K3). -/

/-- `n / d` rounded to the nearest integer, ties to even. -/
def roundDiv (n d : Nat) : Nat :=
  let q := n / d
  let twice := 2 * (n % d)
  if twice > d ∨ (twice = d ∧ q % 2 = 1) then q + 1 else q

/-- The bits below the sign bit of the binary64 nearest to `num / den`, ties to even. Counted in units of 2^-1074, a
magnitude below 2^53 units is its own pattern; above, the pattern is the exponent step and the significand added. A value
that rounds beyond the greatest finite number gives infinity, as the usual conversion does (PRESUMED, log entry 8). -/
def nearestBinary64Bits (num den : Nat) : Nat :=
  let units := num <<< 1074
  let expStep := Nat.log2 (units / den) - 52
  min (0x7FF <<< 52) ((expStep <<< 52) + roundDiv units (den <<< expStep))

/-- The binary64 nearest to `num / den` with the given sign. -/
def nearestBinary64 (neg : Bool) (num den : Nat) : Binary64 :=
  BitVec.ofBool neg ++ BitVec.ofNat 63 (nearestBinary64Bits num den)

/-- An optional sign before a literal; true for `-`. -/
def parseSign : List Char → Bool × List Char
  | '-' :: cs => (true, cs)
  | '+' :: cs => (false, cs)
  | cs => (false, cs)

/-- An exponent: an optional sign and decimal digits. -/
def parseExponent (cs : List Char) : Option (Bool × Nat) :=
  match parseSign cs with
  | (neg, digits) => (parseDigits 10 digits).map fun n => (neg, n)

/-- Digits with an optional point among them, as a number and how many digits stand after the point. -/
def parsePointed (base : Nat) (cs : List Char) : Option (Nat × Nat) :=
  let whole := cs.takeWhile (· != '.')
  let fraction := (cs.dropWhile (· != '.')).drop 1
  (parseDigits base (whole ++ fraction)).map fun n => (n, fraction.length)

/-- `mant * base^exp / den` as numerator and denominator, the exponent signed. -/
def scaleRational (mant den base : Nat) (exp : Bool × Nat) : Nat × Nat :=
  if exp.1 then (mant, den * base ^ exp.2) else (mant * base ^ exp.2, den)

/-- The literal split at its exponent mark, if it has one. -/
def splitAtMark (mark : Char → Bool) (cs : List Char) : List Char × Option (List Char) :=
  let body := cs.takeWhile (fun c => !mark c)
  match cs.dropWhile (fun c => !mark c) with
  | [] => (body, none)
  | _ :: exp => (body, some exp)

/-- A decimal literal: digits with an optional point, and an optional `e` exponent. -/
def parseDecimal (cs : List Char) : Option (Nat × Nat) := do
  let (body, exp) := splitAtMark (fun c => c == 'e' || c == 'E') cs
  let (mant, places) ← parsePointed 10 body
  let e ← (match exp with
    | none => some (false, 0)
    | some digits => parseExponent digits)
  return scaleRational mant (10 ^ places) 10 e

/-- A C99 hexadecimal floating literal after its prefix: hexadecimal digits with an optional point, then `p` and a binary
exponent. -/
def parseHexFloat (cs : List Char) : Option (Nat × Nat) := do
  let (body, exp) := splitAtMark (fun c => c == 'p' || c == 'P') cs
  let (mant, places) ← parsePointed 16 body
  let digits ← exp
  let e ← parseExponent digits
  return scaleRational mant (16 ^ places) 2 e

/-- What stands after the prefix `0x`, in either case as in C99, of a hexadecimal floating literal. -/
def afterHexPrefix : List Char → Option (List Char)
  | '0' :: 'x' :: hex => some hex
  | '0' :: 'X' :: hex => some hex
  | _ => none

/-- The rational, as numerator and denominator, that a literal without its sign denotes: a hexadecimal floating literal or a
decimal literal (R90). -/
def parseLiteral (cs : List Char) : Option (Nat × Nat) :=
  match afterHexPrefix cs with
  | some hex => parseHexFloat hex
  | none => parseDecimal cs

/-- The value of a raw pattern after its `dbl:0x`. R90 shows one pattern, of 16 digits, and does not say how many there must
be: any number of digits whose value is below 2^64 is taken (DESIGN CHOICE, log entry 8). -/
def parseRawPattern (hex : List Char) : Option Binary64 :=
  match parseDigits 16 hex with
  | some n => if n < 2 ^ 64 then some (BitVec.ofNat 64 n) else none
  | none => none

/-- A binary64 operand: a raw pattern `dbl:0x...`, a hexadecimal floating literal, or a decimal literal (R90). Of C99's
hexadecimal floating literals the floating suffixes f, F, l and L are refused, and a sign may stand before the prefix
(DESIGN CHOICE, log entry 8). -/
def parseBinary64 (cs : List Char) : Option Binary64 :=
  match cs with
  | 'd' :: 'b' :: 'l' :: ':' :: '0' :: 'x' :: hex => parseRawPattern hex
  | _ => (parseLiteral (parseSign cs).2).map fun r => nearestBinary64 (parseSign cs).1 r.1 r.2

/-! ### Lines -/

/-- A descriptor operand: an index below the list's length, or a name, which stands for the index of the descriptor of
that name; a name that matches none is refused (R90, R91). -/
def parseDescriptor (ds : List Descriptor) (cs : List Char) : Option Nat :=
  match parseInteger cs with
  | some n => if n < ds.length then some n else none
  | none => ds.findIdx? fun d => d.name.toList == cs

/-- The command a mnemonic and its operands stand for (R90, R91). -/
def parseCommand (c : Config) (mnemonic : String) (ops : List (List Char)) : Option Instr :=
  match mnemonic, ops with
  | "SETUP", [] => some .setup
  | "PWRG", [i, v] => do
    return .pwrg (BitVec.ofNat 8 (← parseDescriptor c.dg i)) (BitVec.ofNat 8 (← parseBelow 256 v))
  | "PWRO", [i, k, v] => do
    return .pwro (BitVec.ofNat 8 (← parseDescriptor c.dop i)) (BitVec.ofNat 2 (← parseBelow 4 k))
      (BitVec.ofNat 8 (← parseBelow 256 v))
  | "ENCFRAME", [] => some .encframe
  | "SENDFRAME", [] => some .sendframe
  | "NOTEON", [n, v] => do
    return .noteon (BitVec.ofNat 8 (← parseBelow 256 n)) (BitVec.ofNat 7 (← parseBelow 128 v))
  | "NOTEOFF", [n] => do return .noteoff (BitVec.ofNat 8 (← parseBelow 256 n))
  | "NOTEEV", [x, hi, lo, v] => do
    return .noteev (BitVec.ofNat 4 (← parseBelow 16 x)) (BitVec.ofNat 8 (← parseBelow 256 hi))
      (BitVec.ofNat 8 (← parseBelow 256 lo)) (BitVec.ofNat 7 (← parseBelow 128 v))
  | "COEFENC", [x] => do return .coefenc (← parseBinary64 x)
  | "EQWR", [u, b0, b1, b2, a1, a2] => do
    return .eqwr (BitVec.ofNat 2 (← parseBelow 3 u)) (← parseBinary64 b0) (← parseBinary64 b1) (← parseBinary64 b2)
      (← parseBinary64 a1) (← parseBinary64 a2)
  | _, _ => none

/-- The mnemonic and the operands of a line of text; none for a line that holds nothing but blanks and a comment (R90). -/
def lineTokens (line : String) : Option (String × List (List Char)) :=
  let text := trimBlanks (dropComment line.toList)
  let mnemonic := text.takeWhile fun ch => !isBlankChar ch
  let rest := trimBlanks (text.dropWhile fun ch => !isBlankChar ch)
  let ops := if rest.isEmpty then [] else (splitOperands rest).map trimBlanks
  if text.isEmpty then none else some (String.ofList mnemonic, ops)

/-- What an assembler makes of one line of text (R90). -/
def assembleLine (c : Config) (line : String) : AsmLine :=
  match lineTokens line with
  | none => .empty
  | some (mnemonic, ops) =>
    match parseCommand c mnemonic ops with
    | some i => .command i
    | none => .refused

/-- The words a program text stands for, one line after another; none if a line is refused (R90). -/
def assemble (c : Config) : List String → Option (List Word)
  | [] => some []
  | line :: lines =>
    match assembleLine c line with
    | .command i => (assemble c lines).map fun ws => encode i ++ ws
    | .empty => assemble c lines
    | .refused => none

end Sys2Proof.Machine
end

