-- ==== Sys2Proof/Safety.lean ====
section
/-! DEFINITION. What a sound state is, and the spec's tables in the terms the statements use. -/

namespace Sys2Proof

/-! ### The match and mask table (R85) -/

/-- The "match" column of R85. -/
def Opcode.matchWord : Opcode → Word
  | .setup => 0x10000000
  | .pwrg => 0x20000000
  | .pwro => 0x30000000
  | .encframe => 0x40000000
  | .sendframe => 0x50000000
  | .noteon => 0x60000000
  | .noteoff => 0x70000000
  | .noteev => 0x80000000
  | .coefenc => 0x90000000
  | .eqwr => 0xA0000000

/-- The "mask" column of R85. -/
def Opcode.maskWord : Opcode → Word
  | .setup => 0xFFFFFFFF
  | .pwrg => 0xF00FFF00
  | .pwro => 0xF00CFF00
  | .encframe => 0xFFFFFFFF
  | .sendframe => 0xFFFFFFFF
  | .noteon => 0xFFFF0080
  | .noteoff => 0xFFFF00FF
  | .noteev => 0xF0000080
  | .coefenc => 0xFFFFFFFF
  | .eqwr => 0xFFFFFFFC

/-! ### The fault table (R210) -/

/-- The commands that raise NOT_INITIALIZED before SETUP (R210): those that emit on the bus, SETUP apart. -/
def Instr.needsSetup : Instr → Bool
  | .sendframe | .noteon _ _ | .noteoff _ | .noteev _ _ _ _ | .eqwr _ _ _ _ _ _ => true
  | .setup | .pwrg _ _ | .pwro _ _ _ | .encframe | .coefenc _ => false

/-- The binary64 operands of a command (R76). -/
def Instr.binary64Operands : Instr → List Binary64
  | .coefenc x => [x]
  | .eqwr _ b0 b1 b2 a1 a2 => [b0, b1, b2, a1, a2]
  | .setup | .pwrg _ _ | .pwro _ _ _ | .encframe | .sendframe | .noteon _ _ | .noteoff _ | .noteev _ _ _ _ => []

/-! ### The operand ranges of the textual form (R90) -/

/-- The integer fields of a command, in the order of its operands in R90; they come before its binary64 operands. -/
def Instr.integerFields : Instr → List Nat
  | .setup | .encframe | .sendframe | .coefenc _ => []
  | .pwrg idx val => [idx.toNat, val.toNat]
  | .pwro idx opi val => [idx.toNat, opi.toNat, val.toNat]
  | .noteon note vel => [note.toNat, vel.toNat]
  | .noteoff note => [note.toNat]
  | .noteev voice hi lo vel => [voice.toNat, hi.toNat, lo.toNat, vel.toNat]
  | .eqwr unit _ _ _ _ _ => [unit.toNat]

/-- For each integer operand of a mnemonic the least integer above its range in R90. -/
def operandBounds (c : Config) : String → List Nat
  | "PWRG" => [c.dg.length, 256]
  | "PWRO" => [c.dop.length, 4, 256]
  | "NOTEON" => [256, 128]
  | "NOTEOFF" => [256]
  | "NOTEEV" => [16, 256, 256, 128]
  | "EQWR" => [3]
  | _ => []

end Sys2Proof

namespace Sys2Proof.Machine

/-! ### The output history -/

/-- The payload of one of the two bursts the block emits: a voice-parameter burst, or an equalizer burst for a unit 0 to 2
(R53). -/
def BurstPayload (c : Config) (bs : List Byte) : Prop :=
  (∃ f, bs = voicePayload c f) ∨
    ∃ u : BitVec 2, u.toNat < 3 ∧ ∃ c0 c1 c2 c3 c4, bs = eqFrame u c0 c1 c2 c3 c4

/-- A history in which every Burst stands in a burst group of its own, the group's events consecutive (R55, R244). -/
inductive GroupedHistory (c : Config) : List BusEvent → Prop where
  | nil : GroupedHistory c []
  /-- Events that hold no Burst were appended. -/
  | plain (h evs : List BusEvent) : GroupedHistory c h → (∀ bs, BusEvent.burst bs ∉ evs) → GroupedHistory c (h ++ evs)
  /-- One burst group was appended. -/
  | group (h : List BusEvent) (bs : List Byte) : GroupedHistory c h → BurstPayload c bs →
      GroupedHistory c (h ++ burstGroup c bs)

/-! ### The invariant -/

/-- At most one slot is Active with any given note (R39). -/
def OneActivePerNote (slots : Vector Slot 16) : Prop :=
  ∀ j k : SlotIx, slots[j].st = .active → slots[k].st = .active → slots[j].note = slots[k].note → j = k

/-- A sound state: what holds after reset in an admitted configuration and what every step keeps. -/
structure State.Inv (s : State) : Prop where
  /-- The configuration is admitted (R101, R223). -/
  admitted : s.cfg.wellFormed = true
  /-- PV_G has NG registers (R21). -/
  generalSize : s.pvG.length = s.cfg.dg.length
  /-- PV_O has NO registers per operator (R22). -/
  operatorSize : ∀ k : Fin 4, s.pvO[k].length = s.cfg.dop.length
  /-- No age is negative (R26). -/
  ageNonneg : ∀ k : SlotIx, 0 ≤ s.slots[k].age.toInt
  /-- At most one slot is Active with any given note (R39). -/
  oneActivePerNote : OneActivePerNote s.slots
  /-- A Free slot has not been used since reset: it reads NOTE 0x00 and AGE 0 (R36, R38, R40). -/
  freeIsBlank : ∀ k : SlotIx, s.slots[k].st = .free → s.slots[k] = Slot.blank
  /-- FCODE is 0 outside the fault state (R29). -/
  noFaultCode : s.status.fault = false → s.status.fcode = 0
  /-- FCODE is one of the codes 1 to 6 in the fault state (R29, R210). -/
  faultCode : s.status.fault = true → 1 ≤ s.status.fcode.toNat ∧ s.status.fcode.toNat ≤ 6
  /-- Nothing is emitted before SETUP has completed (R242). -/
  emittedAfterSetup : s.hist ≠ [] → s.status.initDone = true
  /-- Every Burst stands in a burst group of one of the two shapes (R53, R55). -/
  grouped : GroupedHistory s.cfg s.hist

end Sys2Proof.Machine
end

