-- ==== Sys2Proof/Certificates/Slice0/Obligations.lean ====
section
/-! DEFINITION. The statements about the model, made from the numbered rules of spec/. -/

open Sys2Proof Sys2Proof.Machine

/-! ### Encoding (30_encoding.md) -/

/-- Decoding the words of any command gives it back, whatever words follow: no operand bit is dropped (R75 to R84, R89). -/
def Obligations.DecodeUndoesEncode : Prop :=
  ∀ (i : Instr) (rest : List Word), decode (encode i ++ rest) = .command i rest

/-- The words a command is read from are the words it encodes to: each word has one meaning (R75 to R89). -/
def Obligations.EncodeUndoesDecode : Prop :=
  ∀ (ws rest : List Word) (i : Instr), decode ws = .command i rest → encode i ++ rest = ws

/-- R85: with the operand words there, a word selects a mnemonic exactly when `W & mask = match`; a word with the
mnemonic's OPC that does not match selects nothing and is illegal for its reserved bits. -/
def Obligations.MatchAndMaskSelectTheMnemonic : Prop :=
  ∀ (op : Opcode) (w : Word) (after : List Word), operandWords op ≤ after.length →
    ((∃ i rest, decode (w :: after) = .command i rest ∧ i.opcode = op) ↔ w &&& op.maskWord = op.matchWord) ∧
    (opcodeField w = opcodeValue op → w &&& op.maskWord ≠ op.matchWord →
      decode (w :: after) = .illegal .reservedBits (after.drop (operandWords op)))

/-- R92: the worked encodings: what an assembler makes of each text (in TCFG, whose lists have the indices named), the
words it encodes to, and what the decoder reads from them. -/
def Obligations.WorkedEncodingsDecode : Prop :=
  ∀ p ∈ [ ("SETUP", Instr.setup, [0x10000000#32]),
      ("PWRG 2, 5", .pwrg 2 5, [0x20200005#32]),
      ("PWRO 7, 1, 0x2A", .pwro 7 1 0x2A, [0x3071002A#32]),
      ("ENCFRAME", .encframe, [0x40000000#32]),
      ("SENDFRAME", .sendframe, [0x50000000#32]),
      ("NOTEON 60, 100", .noteon 60 100, [0x60003C64#32]),
      ("NOTEOFF 60", .noteoff 60, [0x70003C00#32]),
      ("NOTEEV 3, 0x14, 0x65, 100", .noteev 3 0x14 0x65 100, [0x83146564#32]),
      ("COEFENC 1.0", .coefenc 0x3FF0000000000000, [0x90000000#32, 0x3FF00000#32, 0x00000000#32]),
      ("EQWR 1, 1.0, 0, 0, 0, 0", .eqwr 1 0x3FF0000000000000 0 0 0 0,
        [0xA0000001#32, 0x3FF00000#32, 0x00000000#32] ++ List.replicate 8 0x00000000#32) ],
    assembleLine Config.tcfg p.1 = .command p.2.1 ∧ encode p.2.1 = p.2.2 ∧ decode p.2.2 = .command p.2.1 []

/-! ### The step (20_memory.md, 60_exceptions.md, 70_reset_and_hazards.md) -/

/-- When a whole command stands at the command port, a step consumes its words and does what `exec` says the command
does (R60, R63, R84). -/
def Obligations.StepRunsTheDecodedCommand : Prop :=
  ∀ (s : State) (i : Instr) (rest : List Word), s.cfg.wellFormed = true → s.resetLine = false →
    decode s.port = .command i rest → step s = exec i { s with port := rest }

/-- While no whole command has been presented the block is idle and holds its state. The waiting for a command's missing
operand words is the model's reading of R63 and R222 (log entry 3). -/
def Obligations.StepWaitsForAWholeCommand : Prop :=
  ∀ s : State, s.cfg.wellFormed = true → s.resetLine = false →
    (s.port = [] ∨ ∃ w after, s.port = w :: after ∧ s.port.length < commandLength w) → step s = .next s

/-- R86: a command word whose OPC is 0x0 or 0xB to 0xF raises RESERVED_OPCODE and consumes only that one word. -/
def Obligations.ReservedOpcodeFaults : Prop :=
  ∀ (s : State) (w : Word) (rest : List Word), s.cfg.wellFormed = true → s.resetLine = false →
    s.status.fault = false → s.port = w :: rest →
    (opcodeField w = 0x0 ∨ 0xB ≤ (opcodeField w).toNat) →
    step s = .next { s with port := rest, status := { s.status with fault := true, fcode := 1 } }

/-- R87: a command word with a listed OPC and a reserved bit set raises RESERVED_BITS, and the operand words its OPC
announces are consumed and ignored. The reserved bits are those outside OPC and the named fields, bit 31 first:
R77 to R83. -/
def Obligations.ReservedBitsFault : Prop :=
  ∀ (s : State) (op : Opcode) (w : Word) (after : List Word), s.cfg.wellFormed = true → s.resetLine = false →
    s.status.fault = false → s.port = w :: after → operandWords op ≤ after.length →
    opcodeField w = opcodeValue op →
    (match op with
      | .setup | .encframe | .sendframe | .coefenc => w.extractLsb' 0 28 ≠ 0
      | .pwrg => w.extractLsb' 8 12 ≠ 0
      | .pwro => w.extractLsb' 18 2 ≠ 0 ∨ w.extractLsb' 8 8 ≠ 0
      | .noteon => w.extractLsb' 16 12 ≠ 0 ∨ w.getLsbD 7 = true
      | .noteoff => w.extractLsb' 16 12 ≠ 0 ∨ w.extractLsb' 0 8 ≠ 0
      | .noteev => w.getLsbD 7 = true
      | .eqwr => w.extractLsb' 2 26 ≠ 0) →
    step s = .next { s with
      port := after.drop (match op with | .coefenc => 2 | .eqwr => 10 | _ => 0)
      status := { s.status with fault := true, fcode := 2 } }

/-- R101: the descriptor lists that are admitted are exactly those that satisfy W1 to W6 and, by R223, have at most 256
entries; with any others every command is refused. -/
def Obligations.AdmittedListsAreThoseOfW1ToW6 : Prop :=
  (∀ s : State, descriptorsAdmitted s.cfg = false → step s = .refused .configRefused) ∧
  ∀ c : Config,
    let mask := fun d : Descriptor => BitVec.ofNat 8 (2 ^ d.bitWidth - 1) <<< d.bitShift
    let either := fun d : Descriptor => d ∈ c.dg ∨ d ∈ c.dop
    descriptorsAdmitted c = true ↔
      c.dg.length ≤ 256 ∧ c.dop.length ≤ 256 ∧
      (∀ d, either d → 1 ≤ d.bitWidth ∧ d.bitWidth ≤ 8 ∧ d.bitShift + d.bitWidth ≤ 8) ∧
      (∀ d ∈ c.dg, d.byteOffset ≤ 29) ∧ (∀ d ∈ c.dop, d.byteOffset + 7 * 3 ≤ 29) ∧
      (∀ d, either d → d.preserveMask = 0xFF ^^^ mask d) ∧
      (∀ i j (hi : i < c.dg.length) (hj : j < c.dg.length), i ≠ j →
        c.dg[i].byteOffset = c.dg[j].byteOffset → mask c.dg[i] &&& mask c.dg[j] = 0) ∧
      (∀ i j (hi : i < c.dg.length) (hj : j < c.dop.length) (k : Fin 4),
        c.dg[i].byteOffset = c.dop[j].byteOffset + 7 * k.val → mask c.dg[i] &&& mask c.dop[j] = 0) ∧
      (∀ i j (hi : i < c.dop.length) (hj : j < c.dop.length) (k l : Fin 4), i ≠ j ∨ k ≠ l →
        c.dop[i].byteOffset + 7 * k.val = c.dop[j].byteOffset + 7 * l.val →
        mask c.dop[i] &&& mask c.dop[j] = 0) ∧
      (∀ d, either d → match d.domain with
        | .count n => 1 ≤ n ∧ n ≤ 2 ^ d.bitWidth
        | .range lo hi => lo ≤ hi ∧ hi ≤ 2 ^ d.bitWidth - 1) ∧
      (c.dg.map Descriptor.name).Nodup ∧ (c.dop.map Descriptor.name).Nodup

/-- R223: a configuration whose descriptor lists are not admitted, or whose PARAM_INIT does not give one value per
parameter (log entry 1), is refused: no block exists for it and no command runs. -/
def Obligations.UnadmittedConfigurationsAreRefused : Prop :=
  ∀ s : State,
    (descriptorsAdmitted s.cfg = false ∨ s.cfg.paramInitG.length ≠ s.cfg.dg.length ∨
      ∃ k : Fin 4, s.cfg.paramInitO[k].length ≠ s.cfg.dop.length) →
    step s = .refused .configRefused

/-- R38: the value of every state element after reset, for every configuration. -/
def Obligations.ResetLeavesTheStatedValues : Prop :=
  (∀ c : Config,
    let s := State.resetWith c
    s.cfg = c ∧
    (∀ i, s.paramG i = c.paramInitG.getD i 0) ∧
    (∀ k j, s.paramO k j = c.paramInitO[k].getD j 0) ∧
    (∀ n (h : n < 30), s.fb[n] = 0x00) ∧
    (∀ k : SlotIx, s.slots[k].st = .free ∧ s.slots[k].note = 0x00 ∧ s.slots[k].age = 0) ∧
    s.lastVoice = 0 ∧ s.code = 0x000000 ∧ s.status.word = 0x00000000 ∧ s.hist = []) ∧
  ∃ c, State.reset = State.resetWith c

/-- R240: an asserted reset sets every element to its reset value, whatever the state was, and emits nothing; the words
at the command port are the issuers' and stay (R35; log entry 2). -/
def Obligations.ResetRestoresTheResetState : Prop :=
  ∀ s : State, s.cfg.wellFormed = true → s.resetLine = true →
    step s = .next { State.resetWith s.cfg with port := s.port }

/-! ### The invariant -/

/-- Right after reset, in every admitted configuration, the state is sound. -/
def Obligations.ResetStateIsSound : Prop :=
  ∀ c : Config, c.wellFormed = true → (State.resetWith c).Inv

/-- Every step from a sound state leads to a sound state: the register files keep their sizes, no age is negative (R26),
at most one slot is Active with any given note (R39), a Free slot is unused (R40), FCODE agrees with FAULT (R29),
nothing is emitted before SETUP (R242), and every Burst stands in its own burst group of one of the two shapes (R53,
R55). -/
def Obligations.EveryStepKeepsTheStateSound : Prop :=
  ∀ s t : State, s.Inv → step s = .next t → t.Inv

/-- From a sound state every step answers a next state: the block never stops (R213, R222). That a faulted block goes on
consuming commands is the one of R213's two readings that the model takes (log entry 12). -/
def Obligations.SoundStatesAlwaysStep : Prop :=
  ∀ s : State, s.Inv → ∃ t, step s = .next t

/-! ### Faults (60_exceptions.md) -/

/-- R210, R211: which fault a decoded command raises, and when none. An index or unit out of range comes first, then
NOT_INITIALIZED for the commands that need SETUP, then COEFF_NONFINITE for an operand whose exponent field is 0x7FF; a
fault writes FAULT and FCODE and nothing else, and without one the command completes with FAULT still 0. -/
def Obligations.FaultsComeInTheStatedOrder : Prop :=
  ∀ (i : Instr) (s : State), s.status.fault = false →
    let faultWith := fun code : BitVec 4 =>
      exec i s = .next { s with status := { s.status with fault := true, fcode := code } }
    let nonFinite := ∃ x ∈ i.binary64Operands, x.extractLsb' 52 11 = 0x7FF
    (i.legal s.cfg = false → faultWith (match i with | .eqwr _ _ _ _ _ _ => 4 | _ => 3)) ∧
    (i.legal s.cfg = true → i.needsSetup = true → s.status.initDone = false → faultWith 5) ∧
    (i.legal s.cfg = true → (i.needsSetup = true → s.status.initDone = true) → nonFinite → faultWith 6) ∧
    (i.legal s.cfg = true → (i.needsSetup = true → s.status.initDone = true) → ¬ nonFinite →
      ∃ t, exec i s = .next t ∧ t.status.fault = false)

/-- R88: DESC_RANGE for a PWRG or PWRO index beyond its descriptor list, EQ_UNIT_RANGE for unit 3, before any state
change; no other field value raises either. -/
def Obligations.OnlyIllegalFieldsRaiseRangeFaults : Prop :=
  ∀ (i : Instr) (s t : State), s.status.fault = false → s.status.fcode = 0 → exec i s = .next t →
    (t.status.fcode = 3 ↔
      (∃ idx val, i = .pwrg idx val ∧ s.cfg.dg.length ≤ idx.toNat) ∨
        ∃ idx opi val, i = .pwro idx opi val ∧ s.cfg.dop.length ≤ idx.toNat) ∧
    (t.status.fcode = 4 ↔ ∃ b0 b1 b2 a1 a2, i = .eqwr 3 b0 b1 b2 a1 a2) ∧
    (t.status.fcode = 3 ∨ t.status.fcode = 4 →
      t = { s with status := { s.status with fault := true, fcode := t.status.fcode } })

/-- R212: fault entry changes FAULT and FCODE alone: no partial effect and no bus event, whether a command raises the fault
or an illegal command word does (which is consumed from the port). -/
def Obligations.FaultsArePrecise : Prop :=
  (∀ (i : Instr) (s t : State), s.status.fault = false → exec i s = .next t → t.status.fault = true →
    ∃ code : FaultCode, t = { s with status := { s.status with fault := true, fcode := code.fcode } }) ∧
  ∀ s t : State, s.status.fault = false → step s = .next t → t.status.fault = true →
    ∃ code : FaultCode, t = { s with port := t.port, status := { s.status with fault := true, fcode := code.fcode } }

/-- R213: in the fault state a command has no effect, and a command at the port, of any OPC, legal or not, is consumed
with its operand words and changes nothing else; every readout still reads as before. That the faulted block consumes
commands, and has not stopped for good, is the one of R213's two readings that the model takes (log entry 12). -/
def Obligations.FaultStateConsumesAndIgnores : Prop :=
  ∀ s : State, s.status.fault = true →
    (∀ i, exec i s = .next s) ∧
    ∀ w after, s.cfg.wellFormed = true → s.resetLine = false → s.port = w :: after →
      commandLength w ≤ s.port.length →
      step s = .next { s with port := s.port.drop (commandLength w) } ∧
      ∀ ra, State.readout { s with port := s.port.drop (commandLength w) } ra = s.readout ra

/-- R214: the only way out of the fault state is reset: any other step keeps FAULT and FCODE as they are. -/
def Obligations.OnlyResetLeavesTheFaultState : Prop :=
  ∀ s t : State, s.status.fault = true → step s = .next t →
    (t.status.fault = true ∧ t.status.fcode = s.status.fcode) ∨ (s.resetLine = true ∧ t.status.fault = false)

/-! ### Which command writes which element (10_state.md) -/

/-- The frame of every command: each element of the state is unchanged but by the commands whose rules write it. PV_G only
by PWRG (R21), PV_O only by PWRO (R22), FB only by ENCFRAME and SENDFRAME (R23), SLOT only by NOTEON and NOTEOFF (R150),
LAST_VOICE only by a NOTEON with nonzero velocity (R27), CODE only by COEFENC (R28), INIT_DONE only by SETUP (R30),
INEXACT only by COEFENC and EQWR (R32), HIST only by the bus-emitting commands (R242); the configuration by none (R33). -/
def Obligations.EachElementIsWrittenOnlyByItsCommands : Prop :=
  ∀ (i : Instr) (s t : State), exec i s = .next t →
    t.cfg = s.cfg ∧ t.port = s.port ∧ t.resetLine = s.resetLine ∧
    (i.opcode ≠ .pwrg → t.pvG = s.pvG) ∧
    (i.opcode ≠ .pwro → t.pvO = s.pvO) ∧
    (i.opcode ≠ .encframe → i.opcode ≠ .sendframe → t.fb = s.fb) ∧
    (i.opcode ≠ .noteon → i.opcode ≠ .noteoff → t.slots = s.slots) ∧
    ((∀ note vel, i = .noteon note vel → vel = 0#7) → t.lastVoice = s.lastVoice) ∧
    (i.opcode ≠ .coefenc → t.code = s.code) ∧
    (i.opcode ≠ .setup → t.status.initDone = s.status.initDone) ∧
    (i.opcode ≠ .coefenc → i.opcode ≠ .eqwr → t.status.inexact = s.status.inexact) ∧
    (i.needsSetup = false → i.opcode ≠ .setup → t.hist = s.hist)

/-- R34: a command only appends to HIST; a step keeps the history as a prefix or starts a new epoch by a reset. -/
def Obligations.HistoryIsAppendOnly : Prop :=
  (∀ (i : Instr) (s t : State), exec i s = .next t → ∃ evs, t.hist = s.hist ++ evs) ∧
  ∀ s t : State, step s = .next t →
    (∃ evs, t.hist = s.hist ++ evs) ∨ (s.resetLine = true ∧ t.hist = [])

/-- R33: no step changes the configuration. -/
def Obligations.ConfigurationNeverChanges : Prop :=
  ∀ s t : State, step s = .next t → t.cfg = s.cfg

/-- R30: INIT_DONE is set by a SETUP outside the fault state, and cleared by a reset alone. -/
def Obligations.InitDoneIsSetBySetupAndClearedByReset : Prop :=
  (∀ (i : Instr) (s t : State), exec i s = .next t →
    t.status.initDone = (s.status.initDone || (decide (i = .setup) && !s.status.fault))) ∧
  ∀ s t : State, step s = .next t → s.status.initDone = true → t.status.initDone = false → s.resetLine = true

/-- R23, R27, R28, R34: FB, LAST_VOICE, CODE and HIST are never read by a command: a run that differs in them alone
differs afterwards in them alone and appends the same events, and each of the first three is afterwards equal in both runs or
left as it was in both. -/
def Obligations.ResultRegistersAreNeverRead : Prop :=
  ∀ (i : Instr) (s t : State) (f : Frame) (v : Voice) (c : Code) (h : List BusEvent), exec i s = .next t →
    ∃ t' evs, exec i { s with fb := f, lastVoice := v, code := c, hist := h } = .next t' ∧
      t.hist = s.hist ++ evs ∧
      t' = { t with fb := t'.fb, lastVoice := t'.lastVoice, code := t'.code, hist := h ++ evs } ∧
      (t'.fb = t.fb ∨ (t.fb = s.fb ∧ t'.fb = f)) ∧
      (t'.lastVoice = t.lastVoice ∨ (t.lastVoice = s.lastVoice ∧ t'.lastVoice = v)) ∧
      (t'.code = t.code ∨ (t.code = s.code ∧ t'.code = c))

/-! ### PWRG, PWRO, ENCFRAME, SENDFRAME (41_frame_packer.md) -/

/-- R104: PWRG with an index below NG writes PV_G[IDX], whatever the value and before SETUP too, and changes nothing
else; the register reads back the value and every other one reads as before. -/
def Obligations.PwrgWritesOneGeneralParameter : Prop :=
  ∀ (s : State) (idx val : Byte), s.status.fault = false → idx.toNat < s.cfg.dg.length →
    ∃ t, exec (.pwrg idx val) s = .next t ∧ t = { s with pvG := t.pvG } ∧ t.pvG.length = s.pvG.length ∧
      (s.pvG.length = s.cfg.dg.length → t.paramG idx.toNat = val) ∧
      ∀ i, i ≠ idx.toNat → t.paramG i = s.paramG i

/-- R105: PWRO with an index below NO writes PV_O[OPI][IDX] and changes nothing else; the other operators' values and the
other descriptors' values are unchanged. -/
def Obligations.PwroWritesOneOperatorParameter : Prop :=
  ∀ (s : State) (idx : Byte) (opi : BitVec 2) (val : Byte), s.status.fault = false →
    idx.toNat < s.cfg.dop.length →
    ∃ t, exec (.pwro idx opi val) s = .next t ∧ t = { s with pvO := t.pvO } ∧
      (∀ k : Fin 4, t.pvO[k].length = s.pvO[k].length) ∧
      ((∀ k : Fin 4, s.pvO[k].length = s.cfg.dop.length) → t.paramO opi.toFin idx.toNat = val) ∧
      ∀ (k : Fin 4) (j : Nat), k.val ≠ opi.toNat ∨ j ≠ idx.toNat → t.paramO k j = s.paramO k j

/-- R108: ENCFRAME stores the encoded frame of the parameter values in FB, before SETUP too, and changes nothing else. -/
def Obligations.EncframeStoresTheEncodedFrame : Prop :=
  ∀ s : State, s.status.fault = false →
    exec .encframe s = .next { s with fb := encodeVoiceFrame s.cfg.dg s.cfg.dop s.pvG s.pvO }

/-- R110: SENDFRAME after SETUP stores the encoded frame in FB and emits PRE_BURST, the burst of its payload and
POST_BURST, in that order and nothing between, and changes nothing else. -/
def Obligations.SendframeEmitsOneBurstGroup : Prop :=
  ∀ s : State, s.status.fault = false → s.status.initDone = true →
    let f := encodeVoiceFrame s.cfg.dg s.cfg.dop s.pvG s.pvO
    exec .sendframe s = .next { s with
      fb := f
      hist := s.hist ++
        (s.cfg.preBurst.map (fun w => BusEvent.write w.addr w.data) ++
          [.burst (s.cfg.hdr.toList ++ (List.replicate 16 f.toList).flatten ++ s.cfg.trl.toList)] ++
          s.cfg.postBurst.map (fun w => BusEvent.write w.addr w.data)) }

/-- R112: for an admitted configuration, byte n of the frame is the OR, over all placements at byte n, of the placement's
value masked to its width and shifted to its place; and any order of the updates gives the same frame. -/
def Obligations.FrameByteIsTheOrOfItsFields : Prop :=
  ∀ (c : Config) (pvG : List Byte) (pvO : Vector (List Byte) 4), c.wellFormed = true →
    let ps := placements c.dg c.dop pvG pvO
    let f := encodeVoiceFrame c.dg c.dop pvG pvO
    (∀ n (h : n < 30), f[n] = (ps.filter fun p => p.byte = n).foldl
      (fun b p => b ||| (p.value &&& BitVec.ofNat 8 (2 ^ p.desc.bitWidth - 1)) <<< p.desc.bitShift) 0) ∧
    ∀ ps' : List Placement, ps'.Perm ps → ps'.foldl packField (Vector.replicate 30 0) = f

/-- R111: decoding a field of the encoded frame gives its parameter's value back when the value is in its domain, and the
value's low bit_width bits in any case. -/
def Obligations.EncodedFieldsDecodeToTheirValues : Prop :=
  ∀ (c : Config) (pvG : List Byte) (pvO : Vector (List Byte) 4), c.wellFormed = true →
    let f := encodeVoiceFrame c.dg c.dop pvG pvO
    (∀ i (h : i < c.dg.length),
      decodeGeneralField f c.dg[i] = pvG.getD i 0 &&& BitVec.ofNat 8 (2 ^ c.dg[i].bitWidth - 1) ∧
      (inDomain c.dg[i] (pvG.getD i 0) = true → decodeGeneralField f c.dg[i] = pvG.getD i 0)) ∧
    ∀ j (h : j < c.dop.length) (k : Fin 4),
      decodeOperatorField f c.dop[j] k = pvO[k].getD j 0 &&& BitVec.ofNat 8 (2 ^ c.dop[j].bitWidth - 1) ∧
      (inDomain c.dop[j] (pvO[k].getD j 0) = true → decodeOperatorField f c.dop[j] k = pvO[k].getD j 0)

/-- R109: the voice payload has 486 bytes; the header is first, byte 2 + 30 v + n is f[n] for every voice v, and bytes
482 to 485 are the trailer. -/
def Obligations.VoicePayloadLayout : Prop :=
  ∀ (c : Config) (f : Frame),
    (voicePayload c f).length = 486 ∧
    (∀ n (h : n < 2), (voicePayload c f)[n]? = some c.hdr[n]) ∧
    (∀ v n (h : n < 30), v < 16 → (voicePayload c f)[2 + 30 * v + n]? = some f[n]) ∧
    ∀ n (h : n < 4), (voicePayload c f)[482 + n]? = some c.trl[n]

/-! ### NOTEEV, SETUP (42_note_event_setup.md) -/

/-- R132: SETUP emits the events of INIT_PROGRAM in order and sets INIT_DONE, whether it was set or not, and changes
nothing else: the parameter store, FB, the slots, LAST_VOICE and CODE stay. -/
def Obligations.SetupEmitsTheProgramAndSetsInitDone : Prop :=
  ∀ s : State, s.status.fault = false →
    exec .setup s = .next { s with
      status := { s.status with initDone := true }
      hist := s.hist ++ s.cfg.initProgram.map fun ev =>
        match ev with
        | .write a d => BusEvent.write a d
        | .resetPulse => BusEvent.resetPulse
        | .delay t => BusEvent.delay t }

/-- R130, R131: after SETUP, NOTEEV with velocity 0 emits the note-off write alone; with another velocity voice select,
velocity masked with 0x7E, pitch-high, pitch-low and the strobe, in that order. It changes no state: the allocator's
slots and LAST_VOICE stay. -/
def Obligations.NoteevEmitsItsWritesInOrder : Prop :=
  ∀ (s : State) (v : Voice) (hi lo : Byte) (vel : Velocity), s.status.fault = false → s.status.initDone = true →
    exec (.noteev v hi lo vel) s = .next { s with hist := s.hist ++
      (if vel = 0#7 then [.write 0x0F (v.setWidth 8)]
      else
        [ .write s.cfg.regVsel (v.setWidth 8), .write s.cfg.regVel (vel.setWidth 8 &&& 0x7E),
          .write s.cfg.regPhi hi, .write s.cfg.regPlo lo, .write 0x0F (0x40 ||| v.setWidth 8) ]) }

/-! ### NOTEON, NOTEOFF (43_voice_allocator.md) -/

/-- R160: after SETUP, NOTEOFF of a note no Active slot holds does nothing; otherwise the lowest-numbered Active slot
holding it gets its note-off write and becomes (Aging, note, 0), and nothing else changes. -/
def Obligations.NoteoffReleasesTheLowestSoundingSlot : Prop :=
  ∀ (s : State) (note : Byte), s.status.fault = false → s.status.initDone = true →
    ((∀ k : SlotIx, ¬ (s.slots[k].st = .active ∧ s.slots[k].note = note)) → exec (.noteoff note) s = .next s) ∧
    ∀ k : SlotIx, s.slots[k].st = .active → s.slots[k].note = note →
      (∀ j : SlotIx, j < k → ¬ (s.slots[j].st = .active ∧ s.slots[j].note = note)) →
      exec (.noteoff note) s = .next { s with
        slots := s.slots.set k.val { st := .aging, note := note, age := 0 } k.isLt
        hist := s.hist ++ [.write 0x0F (BitVec.ofNat 8 k.val)] }

/-- R161: a NOTEON with velocity 0 has exactly the effect of NOTEOFF with the same note; LAST_VOICE is unchanged. -/
def Obligations.NoteonWithVelocityZeroIsNoteoff : Prop :=
  ∀ (s : State) (note : Byte), exec (.noteon note 0) s = exec (.noteoff note) s ∧
    ∃ t, exec (.noteon note 0) s = .next t ∧ t.lastVoice = s.lastVoice

/-- R153 to R159: after SETUP, NOTEON with nonzero velocity. `r` is the slots after the retrigger step. The selected slot
is the lowest Free slot of `r`, or, if none is Free, the lowest slot of greatest age; it becomes (Active, note, 0). Every
other slot that is not Free ages by one, saturating at 2^31 - 1, if AGE_ALL_ON_ALLOC holds or the selection was by age.
LAST_VOICE is the selected voice. The retrigger note-offs come first in slot order, then the note-off of a selected slot
still Active, then the five note-on writes with the pitch entry `note mod 127`. Nothing else changes. -/
def Obligations.NoteonAllocatesAVoice : Prop :=
  ∀ (s : State) (note : Byte) (vel : Velocity), s.status.fault = false → s.status.initDone = true → vel ≠ 0#7 →
    ∃ (t : State) (r : Vector Slot 16) (sel : SlotIx) (evict : Bool),
      exec (.noteon note vel) s = .next t ∧
      (∀ k : SlotIx, r[k] =
        if s.slots[k].st = .active ∧ s.slots[k].note = note then { st := .aging, note := note, age := 0 }
        else s.slots[k]) ∧
      (evict = false → r[sel].st = .free ∧ ∀ k : SlotIx, k < sel → r[k].st ≠ .free) ∧
      (evict = true → (∀ k : SlotIx, r[k].st ≠ .free) ∧
        (∀ k : SlotIx, r[k].age.toInt ≤ r[sel].age.toInt) ∧
        ∀ k : SlotIx, k < sel → r[k].age.toInt < r[sel].age.toInt) ∧
      t.slots[sel] = { st := .active, note := note, age := 0 } ∧
      (∀ k : SlotIx, k ≠ sel → t.slots[k] =
        if (s.cfg.ageAllOnAlloc = true ∨ evict = true) ∧ r[k].st ≠ .free then
          { r[k] with age := if r[k].age = 0x7FFFFFFF then r[k].age else r[k].age + 1 }
        else r[k]) ∧
      t = { s with
        slots := t.slots
        lastVoice := BitVec.ofNat 4 sel.val
        hist := s.hist ++
          ((List.finRange 16).filter (fun k => decide (s.slots[k].st = .active ∧ s.slots[k].note = note))).map
            (fun k => BusEvent.write 0x0F (BitVec.ofNat 8 k.val)) ++
          (if r[sel].st = .active then [BusEvent.write 0x0F (BitVec.ofNat 8 sel.val)] else []) ++
          [ .write s.cfg.regVsel (BitVec.ofNat 8 sel.val), .write s.cfg.regVel (vel.setWidth 8 &&& 0x7E),
            .write s.cfg.regPhi (s.cfg.pitchHi[note.toNat % 127]'(by omega)),
            .write s.cfg.regPlo (s.cfg.pitchLo[note.toNat % 127]'(by omega)),
            .write 0x0F (0x40 ||| BitVec.ofNat 8 sel.val) ] }

/-- R159 (b), R245: in a state with at most one Active slot per note, a NOTEON with nonzero velocity emits at most two
note-offs and then the five note-on writes of the voice in LAST_VOICE: voice select, masked velocity, pitch-high, pitch-low
and, last, the strobe (R130): at most seven events. -/
def Obligations.NoteonEmitsAtMostSevenEventsStrobeLast : Prop :=
  ∀ (s t : State) (note : Byte) (vel : Velocity), OneActivePerNote s.slots → s.status.fault = false →
    s.status.initDone = true → vel ≠ 0#7 → exec (.noteon note vel) s = .next t →
    ∃ offs : List BusEvent,
      t.hist = s.hist ++ offs ++
        [ .write s.cfg.regVsel (t.lastVoice.setWidth 8), .write s.cfg.regVel (vel.setWidth 8 &&& 0x7E),
          .write s.cfg.regPhi (s.cfg.pitchHi[note.toNat % 127]'(by omega)),
          .write s.cfg.regPlo (s.cfg.pitchLo[note.toNat % 127]'(by omega)),
          .write 0x0F (0x40 ||| t.lastVoice.setWidth 8) ] ∧
      offs.length ≤ 2 ∧ ∀ e ∈ offs, ∃ k : SlotIx, e = .write 0x0F (BitVec.ofNat 8 k.val)

/-- R150, R40: a command moves a slot only along the transitions Free to Active, Active to Aging, Active to Active and
Aging to Active (a slot that keeps its state keeps its note, but for an Active slot taken by a new note); only NOTEON and
NOTEOFF do, and none makes a slot Free. -/
def Obligations.SlotsMoveOnlyAlongTheLifecycle : Prop :=
  ∀ (i : Instr) (s t : State) (k : SlotIx), exec i s = .next t →
    (t.slots[k].st = s.slots[k].st ∧ t.slots[k].note = s.slots[k].note) ∨
    ((∃ note vel, i = .noteon note vel ∧ vel ≠ 0#7 ∧ t.slots[k] = { st := .active, note := note, age := 0 }) ∨
      ((i.opcode = .noteon ∨ i.opcode = .noteoff) ∧ s.slots[k].st = .active ∧ t.slots[k].st = .aging ∧
        t.slots[k].note = s.slots[k].note))

/-- R162, the capacity property, for AGE_ALL_ON_ALLOC = true: with all slots Free after SETUP, sixteen NOTEON commands of
distinct notes fill slots 0 to 15 in order without a note-off, slot k then having age 15 - k; a seventeenth new note takes
slot 0 after its eviction note-off and leaves slot k with age 16 - k. The sentence of R162 about the switch being false is
not stated: it disagrees with R156 (log entry 6). -/
def Obligations.SixteenNotesFillTheSlotsAndTheNextEvictsSlotZero : Prop :=
  ∀ (s : State) (notes : List Byte) (vels : List Velocity) (note : Byte) (vel : Velocity),
    s.status.fault = false → s.status.initDone = true → s.cfg.ageAllOnAlloc = true →
    s.slots = Vector.replicate 16 Slot.blank → notes.length = 16 → vels.length = 16 → (∀ v ∈ vels, v ≠ 0) →
    notes.Nodup → note ∉ notes → vel ≠ 0#7 →
    let play := fun (o : Host.Outcome State Fault Refusal) (nv : Byte × Velocity) =>
      match o with
      | .next u => exec (.noteon nv.1 nv.2) u
      | other => other
    ∃ t u : State, (notes.zip vels).foldl play (.next s) = .next t ∧ exec (.noteon note vel) t = .next u ∧
      (∀ k : SlotIx, t.slots[k] =
        { st := .active, note := notes.getD k.val 0, age := BitVec.ofNat 32 (15 - k.val) }) ∧
      t.lastVoice = 15 ∧
      t.hist = s.hist ++ (List.finRange 16).flatMap
        (fun k => noteOnWrites s.cfg k (notes.getD k.val 0) (vels.getD k.val 0)) ∧
      u.slots[0] = { st := .active, note := note, age := 0 } ∧
      (∀ k : SlotIx, k ≠ 0 → u.slots[k] =
        { st := .active, note := notes.getD k.val 0, age := BitVec.ofNat 32 (16 - k.val) }) ∧
      u.lastVoice = 0 ∧
      u.hist = t.hist ++ [.write 0x0F 0] ++ noteOnWrites s.cfg 0 note vel

/-- R163: with all slots Free after SETUP, the same note struck twice emits exactly one note-off, that of slot 0, between
the two note-on sequences, and puts the second sounding in slot 1. -/
def Obligations.StrikingANoteTwiceSilencesItOnce : Prop :=
  ∀ (s : State) (note : Byte) (v1 v2 : Velocity), s.status.fault = false → s.status.initDone = true →
    s.slots = Vector.replicate 16 Slot.blank → v1 ≠ 0 → v2 ≠ 0 →
    ∃ t u : State, exec (.noteon note v1) s = .next t ∧ exec (.noteon note v2) t = .next u ∧
      t.hist = s.hist ++ noteOnWrites s.cfg 0 note v1 ∧
      u.hist = t.hist ++ [.write 0x0F 0] ++ noteOnWrites s.cfg 1 note v2 ∧
      u.slots[(0 : SlotIx)].st = .aging ∧ u.slots[(1 : SlotIx)] = { st := .active, note := note, age := 0 } ∧
      u.lastVoice = 1

/-- R26: the saturating increment of an age that is not negative is the next integer, up to 2^31 - 1. -/
def Obligations.AgesSaturateInsteadOfWrapping : Prop :=
  ∀ a : Age, (a.toInt = 2 ^ 31 - 1 → (satInc a).toInt = 2 ^ 31 - 1) ∧
    (a.toInt ≠ 2 ^ 31 - 1 → (satInc a).toInt = a.toInt + 1)

/-! ### COEFENC, EQWR (44_coeff_codec.md) -/

/-- R185: the carry loop along the whole 24-bit string adds one modulo 2^24, the two's-complement correction. -/
def Obligations.CarryPropagationAddsOne : Prop :=
  ∀ b : Code, carryFrom 24 0 b = b + 1

/-- R184: the repeated doubling of any exact remainder below 1 yields the first 20 bits after the binary point, and a
remainder that is zero exactly when no bit was lost. -/
def Obligations.RepeatedDoublingTruncatesTheFraction : Prop :=
  ∀ m : Nat,
    (fractionExpansion m).1.toNat = (m % 2 ^ 1074) * 2 ^ 20 / 2 ^ 1074 ∧
    ((fractionExpansion m).2 ≠ 0 ↔ ¬ (2 ^ 1074 ∣ m * 2 ^ 20))

/-- R187: the closed form of the code of a finite operand, with T = (floor|x| mod 8) * 2^20 + floor(frac|x| * 2^20): C is
T for x >= 0 and 2^24 - T modulo 2^24 for x < 0; for |x| < 8 it is sign(x) * floor(|x| * 2^20) modulo 2^24; a nonzero
negative code lies in 0x800001..0xFFFFFF, a positive one in 0x000000..0x7FFFFF, and 0x800000 is never produced.
The number a pattern denotes, `b64Value`, is log entry 15's. -/
def Obligations.CodeHasTheClosedForm : Prop :=
  ∀ x : Binary64, b64NonFinite x = false →
    ∃ (c : Code) (inexact : Bool), coeffEncode x = .ok (c, inexact) ∧
      (let v := b64Value x
       let T := (⌊|v|⌋ % 8) * 2 ^ 20 + ⌊Int.fract |v| * 2 ^ 20⌋
       (0 ≤ v → (c.toNat : ℤ) = T ∧ c.toNat ≤ 0x7FFFFF) ∧
       (v < 0 → (c.toNat : ℤ) = (2 ^ 24 - T) % 2 ^ 24 ∧ (c ≠ 0 → 0x800001 ≤ c.toNat)) ∧
       c ≠ 0x800000 ∧
       (|v| < 8 → 0 ≤ v → (c.toNat : ℤ) = ⌊|v| * 2 ^ 20⌋ % 2 ^ 24) ∧
       (|v| < 8 → v < 0 → (c.toNat : ℤ) = (-⌊|v| * 2 ^ 20⌋) % 2 ^ 24) ∧
       (inexact = false ↔ ∃ n : ℤ, |v| * 2 ^ 20 = n))

/-- R193: for a finite operand below 8 in magnitude the decoded code is sign(x) * floor(|x| * 2^20) / 2^20: within 2^-20 of
the operand, and equal to it exactly when the inexact flag is 0. From 8 on it is that of the magnitude whose integer part is
reduced modulo 8. The number a pattern denotes, `b64Value`, is log entry 15's. -/
def Obligations.CodeRoundTripsWithinOneStep : Prop :=
  ∀ (x : Binary64) (c : Code) (inexact : Bool), coeffEncode x = .ok (c, inexact) →
    let v := b64Value x
    let sign : ℚ := if v < 0 then -1 else 1
    (|v| < 8 →
      coeffDecode c = sign * ((⌊|v| * 2 ^ 20⌋ : ℤ) : ℚ) / 2 ^ 20 ∧
      |v - coeffDecode c| < 1 / 2 ^ 20 ∧ (coeffDecode c = v ↔ inexact = false)) ∧
    (8 ≤ |v| →
      coeffDecode c = sign * ((⌊(((⌊|v|⌋ % 8 : ℤ) : ℚ) + Int.fract |v|) * 2 ^ 20⌋ : ℤ) : ℚ) / 2 ^ 20)

/-- R194: +0.0 and -0.0 both give the code 0x000000 with inexact = 0, which decodes to 0. -/
def Obligations.BothZerosEncodeToZero : Prop :=
  (∀ x ∈ [0x0000000000000000#64, 0x8000000000000000#64], coeffEncode x = .ok (0x000000, false)) ∧
    coeffDecode 0x000000 = 0

/-- R181: a NaN or an infinity, an exponent field of 0x7FF, raises COEFF_NONFINITE; every finite operand is converted. -/
def Obligations.ExactlyTheNonFiniteOperandsAreRejected : Prop :=
  ∀ x : Binary64, (x.extractLsb' 52 11 = 0x7FF → coeffEncode x = .error .coeffNonfinite) ∧
    (x.extractLsb' 52 11 ≠ 0x7FF → ∃ r, coeffEncode x = .ok r)

/-- R189: COEFENC of a finite operand, before SETUP too, stores the code in CODE and the inexact flag in STATUS.INEXACT and
changes nothing else; of a NaN or an infinity it raises COEFF_NONFINITE, CODE and INEXACT unchanged. -/
def Obligations.CoefencStoresTheCode : Prop :=
  ∀ (s : State) (x : Binary64), s.status.fault = false →
    (x.extractLsb' 52 11 ≠ 0x7FF → ∃ c inexact, coeffEncode x = .ok (c, inexact) ∧
      exec (.coefenc x) s = .next { s with code := c, status := { s.status with inexact := inexact } }) ∧
    (x.extractLsb' 52 11 = 0x7FF →
      exec (.coefenc x) s = .next { s with status := { s.status with fault := true, fcode := 6 } })

/-- R188, R190, R191: after SETUP, EQWR of unit 0 to 2 with five finite operands emits one burst group whose burst is the
address 32 + unit and the three bytes of each code, most significant first, in the order b0, b1, b2, a1, a2; INEXACT takes
the OR of the five flags, and nothing else changes: CODE stays. -/
def Obligations.EqwrEmitsOneEqualizerBurst : Prop :=
  ∀ (s : State) (unit : BitVec 2) (b0 b1 b2 a1 a2 : Binary64), s.status.fault = false → s.status.initDone = true →
    unit.toNat < 3 → (∀ x ∈ [b0, b1, b2, a1, a2], x.extractLsb' 52 11 ≠ 0x7FF) →
    ∃ (c0 c1 c2 c3 c4 : Code) (i0 i1 i2 i3 i4 : Bool),
      coeffEncode b0 = .ok (c0, i0) ∧ coeffEncode b1 = .ok (c1, i1) ∧ coeffEncode b2 = .ok (c2, i2) ∧
      coeffEncode a1 = .ok (c3, i3) ∧ coeffEncode a2 = .ok (c4, i4) ∧
      exec (.eqwr unit b0 b1 b2 a1 a2) s = .next { s with
        status := { s.status with inexact := i0 || i1 || i2 || i3 || i4 }
        hist := s.hist ++
          (s.cfg.preBurst.map (fun w => BusEvent.write w.addr w.data) ++
            [.burst (BitVec.ofNat 8 (32 + unit.toNat) ::
              [c0, c1, c2, c3, c4].flatMap fun c =>
                [c.extractLsb' 16 8, c.extractLsb' 8 8, c.extractLsb' 0 8])] ++
            s.cfg.postBurst.map (fun w => BusEvent.write w.addr w.data)) }

/-! ### The readout port and the bus (10_state.md, 20_memory.md) -/

/-- R29: the layout of STATUS: each field at its bits, every other bit 0. -/
def Obligations.StatusWordLayout : Prop :=
  ∀ st : Status, st.word.getLsbD 0 = st.initDone ∧ st.word.getLsbD 1 = st.fault ∧ st.word.getLsbD 2 = st.inexact ∧
    st.word.getLsbD 3 = false ∧ st.word.extractLsb' 4 4 = st.fcode ∧ ∀ n, 8 ≤ n → st.word.getLsbD n = false

/-- R36: the readout map, in every state whose register files have their sizes and whose lists have at most 256
descriptors. -/
def Obligations.ReadoutMap : Prop :=
  ∀ s : State, s.cfg.dg.length ≤ 256 → s.cfg.dop.length ≤ 256 →
    s.readout 0x0000 = s.status.word ∧ s.readout 0x0001 = s.code.setWidth 32 ∧
    s.readout 0x0002 = s.lastVoice.setWidth 32 ∧
    (∀ n (h : n < 30), s.readout (BitVec.ofNat 16 (0x0100 + n)) = s.fb[n].setWidth 32) ∧
    (∀ k : SlotIx, s.readout (BitVec.ofNat 16 (0x0200 + 2 * k.val)) =
      0#16 ++ s.slots[k].note ++ 0#6 ++
        (match s.slots[k].st with | .free => 0b00#2 | .active => 0b01#2 | .aging => 0b10#2)) ∧
    (∀ k : SlotIx, s.readout (BitVec.ofNat 16 (0x0201 + 2 * k.val)) = s.slots[k].age) ∧
    (∀ i, i < s.cfg.dg.length → s.readout (BitVec.ofNat 16 (0x0300 + i)) = (s.paramG i).setWidth 32) ∧
    (∀ (k : Fin 4) j, j < s.cfg.dop.length →
      s.readout (BitVec.ofNat 16 (0x0400 + 0x100 * k.val + j)) = (s.paramO k j).setWidth 32) ∧
    ∀ ra : BitVec 16, ra ≠ 0x0000 → ra ≠ 0x0001 → ra ≠ 0x0002 →
      (∀ n, n < 30 → ra.toNat ≠ 0x0100 + n) → (∀ k : SlotIx, ra.toNat ≠ 0x0200 + 2 * k.val) →
      (∀ k : SlotIx, ra.toNat ≠ 0x0201 + 2 * k.val) → (∀ i, i < s.cfg.dg.length → ra.toNat ≠ 0x0300 + i) →
      (∀ (k : Fin 4) j, j < s.cfg.dop.length → ra.toNat ≠ 0x0400 + 0x100 * k.val + j) → s.readout ra = 0

/-- R52, R53: a Write puts the two bytes [a, d] on the bus; the block's bursts are 486 bytes, header first, or 16 bytes,
the first being 32 + unit. -/
def Obligations.BusEventsCarryTheirBytes : Prop :=
  (∀ a d, (BusEvent.write a d).wireBytes = [a, d]) ∧ (∀ bs, (BusEvent.burst bs).wireBytes = bs) ∧
    ∀ (c : Config) (bs : List Byte), BurstPayload c bs →
      (bs.length = 486 ∧ bs[0]? = some c.hdr[0]) ∨
        (bs.length = 16 ∧ ∃ u, u < 3 ∧ bs[0]? = some (BitVec.ofNat 8 (32 + u)))

/-! ### The assembler (30_encoding.md R90, R91) -/

/-- R90: a decimal or hexadecimal literal whose value is a finite binary64's own denotes that binary64: whatever fraction the
value is written as, the rounding leaves it alone, and so does the parsing of a literal with an optional sign. The format of
a binary64 is log entry 15's, the grammar of the literals log entry 8's. -/
def Obligations.RepresentableLiteralsAreExact : Prop :=
  ∀ (x : Binary64) (num den : Nat), b64NonFinite x = false → num * 2 ^ 1074 = b64Magnitude x * den →
    (0 < den → nearestBinary64 (b64SignBit x) num den = x) ∧
    ∀ text digits : List Char, parseSign text = (b64SignBit x, digits) → parseLiteral digits = some (num, den) →
      parseBinary64 text = some x

/-- R90: a command the assembler makes of a line is legal, and each of its integer fields is the integer its operand reads as:
nothing is truncated. A line one of whose integer operands is at or above its bound is refused. Which texts read as integers
is log entry 8's. -/
def Obligations.AssembledCommandsAreLegal : Prop :=
  ∀ (c : Config) (line : String), c.dg.length ≤ 256 → c.dop.length ≤ 256 →
    (∀ i, assembleLine c line = .command i →
      i.legal c = true ∧
      ∃ mnemonic ops, lineTokens line = some (mnemonic, ops) ∧
        ∀ (k n : Nat) (text : List Char), k < i.integerFields.length → ops[k]? = some text →
          parseInteger text = some n → i.integerFields[k]? = some n) ∧
    ∀ (mnemonic : String) (ops : List (List Char)) (k n bound : Nat) (text : List Char),
      lineTokens line = some (mnemonic, ops) → (operandBounds c mnemonic)[k]? = some bound →
      ops[k]? = some text → parseInteger text = some n → bound ≤ n → assembleLine c line = .refused
end

