-- ==== Sys2Proof/Laws/State.lean ====
section
/-! SUPPORT. One lemma per field per update of the state, so that no proof unfolds a record update. -/

namespace Sys2Proof.Machine

/-! ### `State.setParamG` -/

@[simp] theorem State.setParamG_cfg (s : State) (i : Nat) (v : Byte) : (s.setParamG i v).cfg = s.cfg := rfl
@[simp] theorem State.setParamG_pvG (s : State) (i : Nat) (v : Byte) : (s.setParamG i v).pvG = s.pvG.set i v := rfl
@[simp] theorem State.setParamG_pvO (s : State) (i : Nat) (v : Byte) : (s.setParamG i v).pvO = s.pvO := rfl
@[simp] theorem State.setParamG_fb (s : State) (i : Nat) (v : Byte) : (s.setParamG i v).fb = s.fb := rfl
@[simp] theorem State.setParamG_slots (s : State) (i : Nat) (v : Byte) : (s.setParamG i v).slots = s.slots := rfl
@[simp] theorem State.setParamG_lastVoice (s : State) (i : Nat) (v : Byte) : (s.setParamG i v).lastVoice = s.lastVoice := rfl
@[simp] theorem State.setParamG_code (s : State) (i : Nat) (v : Byte) : (s.setParamG i v).code = s.code := rfl
@[simp] theorem State.setParamG_status (s : State) (i : Nat) (v : Byte) : (s.setParamG i v).status = s.status := rfl
@[simp] theorem State.setParamG_hist (s : State) (i : Nat) (v : Byte) : (s.setParamG i v).hist = s.hist := rfl
@[simp] theorem State.setParamG_port (s : State) (i : Nat) (v : Byte) : (s.setParamG i v).port = s.port := rfl
@[simp] theorem State.setParamG_resetLine (s : State) (i : Nat) (v : Byte) : (s.setParamG i v).resetLine = s.resetLine := rfl

/-! ### `State.setParamO` -/

@[simp] theorem State.setParamO_cfg (s : State) (k : Fin 4) (j : Nat) (v : Byte) : (s.setParamO k j v).cfg = s.cfg := rfl
@[simp] theorem State.setParamO_pvG (s : State) (k : Fin 4) (j : Nat) (v : Byte) : (s.setParamO k j v).pvG = s.pvG := rfl
@[simp] theorem State.setParamO_pvO (s : State) (k : Fin 4) (j : Nat) (v : Byte) : (s.setParamO k j v).pvO = s.pvO.set k.val (s.pvO[k].set j v) k.isLt := rfl
@[simp] theorem State.setParamO_fb (s : State) (k : Fin 4) (j : Nat) (v : Byte) : (s.setParamO k j v).fb = s.fb := rfl
@[simp] theorem State.setParamO_slots (s : State) (k : Fin 4) (j : Nat) (v : Byte) : (s.setParamO k j v).slots = s.slots := rfl
@[simp] theorem State.setParamO_lastVoice (s : State) (k : Fin 4) (j : Nat) (v : Byte) : (s.setParamO k j v).lastVoice = s.lastVoice := rfl
@[simp] theorem State.setParamO_code (s : State) (k : Fin 4) (j : Nat) (v : Byte) : (s.setParamO k j v).code = s.code := rfl
@[simp] theorem State.setParamO_status (s : State) (k : Fin 4) (j : Nat) (v : Byte) : (s.setParamO k j v).status = s.status := rfl
@[simp] theorem State.setParamO_hist (s : State) (k : Fin 4) (j : Nat) (v : Byte) : (s.setParamO k j v).hist = s.hist := rfl
@[simp] theorem State.setParamO_port (s : State) (k : Fin 4) (j : Nat) (v : Byte) : (s.setParamO k j v).port = s.port := rfl
@[simp] theorem State.setParamO_resetLine (s : State) (k : Fin 4) (j : Nat) (v : Byte) : (s.setParamO k j v).resetLine = s.resetLine := rfl

/-! ### `State.setFb` -/

@[simp] theorem State.setFb_cfg (s : State) (f : Frame) : (s.setFb f).cfg = s.cfg := rfl
@[simp] theorem State.setFb_pvG (s : State) (f : Frame) : (s.setFb f).pvG = s.pvG := rfl
@[simp] theorem State.setFb_pvO (s : State) (f : Frame) : (s.setFb f).pvO = s.pvO := rfl
@[simp] theorem State.setFb_fb (s : State) (f : Frame) : (s.setFb f).fb = f := rfl
@[simp] theorem State.setFb_slots (s : State) (f : Frame) : (s.setFb f).slots = s.slots := rfl
@[simp] theorem State.setFb_lastVoice (s : State) (f : Frame) : (s.setFb f).lastVoice = s.lastVoice := rfl
@[simp] theorem State.setFb_code (s : State) (f : Frame) : (s.setFb f).code = s.code := rfl
@[simp] theorem State.setFb_status (s : State) (f : Frame) : (s.setFb f).status = s.status := rfl
@[simp] theorem State.setFb_hist (s : State) (f : Frame) : (s.setFb f).hist = s.hist := rfl
@[simp] theorem State.setFb_port (s : State) (f : Frame) : (s.setFb f).port = s.port := rfl
@[simp] theorem State.setFb_resetLine (s : State) (f : Frame) : (s.setFb f).resetLine = s.resetLine := rfl

/-! ### `State.setSlots` -/

@[simp] theorem State.setSlots_cfg (s : State) (v : Vector Slot 16) : (s.setSlots v).cfg = s.cfg := rfl
@[simp] theorem State.setSlots_pvG (s : State) (v : Vector Slot 16) : (s.setSlots v).pvG = s.pvG := rfl
@[simp] theorem State.setSlots_pvO (s : State) (v : Vector Slot 16) : (s.setSlots v).pvO = s.pvO := rfl
@[simp] theorem State.setSlots_fb (s : State) (v : Vector Slot 16) : (s.setSlots v).fb = s.fb := rfl
@[simp] theorem State.setSlots_slots (s : State) (v : Vector Slot 16) : (s.setSlots v).slots = v := rfl
@[simp] theorem State.setSlots_lastVoice (s : State) (v : Vector Slot 16) : (s.setSlots v).lastVoice = s.lastVoice := rfl
@[simp] theorem State.setSlots_code (s : State) (v : Vector Slot 16) : (s.setSlots v).code = s.code := rfl
@[simp] theorem State.setSlots_status (s : State) (v : Vector Slot 16) : (s.setSlots v).status = s.status := rfl
@[simp] theorem State.setSlots_hist (s : State) (v : Vector Slot 16) : (s.setSlots v).hist = s.hist := rfl
@[simp] theorem State.setSlots_port (s : State) (v : Vector Slot 16) : (s.setSlots v).port = s.port := rfl
@[simp] theorem State.setSlots_resetLine (s : State) (v : Vector Slot 16) : (s.setSlots v).resetLine = s.resetLine := rfl

/-! ### `State.setSlot` -/

@[simp] theorem State.setSlot_cfg (s : State) (k : SlotIx) (sl : Slot) : (s.setSlot k sl).cfg = s.cfg := rfl
@[simp] theorem State.setSlot_pvG (s : State) (k : SlotIx) (sl : Slot) : (s.setSlot k sl).pvG = s.pvG := rfl
@[simp] theorem State.setSlot_pvO (s : State) (k : SlotIx) (sl : Slot) : (s.setSlot k sl).pvO = s.pvO := rfl
@[simp] theorem State.setSlot_fb (s : State) (k : SlotIx) (sl : Slot) : (s.setSlot k sl).fb = s.fb := rfl
@[simp] theorem State.setSlot_slots (s : State) (k : SlotIx) (sl : Slot) : (s.setSlot k sl).slots = s.slots.set k.val sl k.isLt := rfl
@[simp] theorem State.setSlot_lastVoice (s : State) (k : SlotIx) (sl : Slot) : (s.setSlot k sl).lastVoice = s.lastVoice := rfl
@[simp] theorem State.setSlot_code (s : State) (k : SlotIx) (sl : Slot) : (s.setSlot k sl).code = s.code := rfl
@[simp] theorem State.setSlot_status (s : State) (k : SlotIx) (sl : Slot) : (s.setSlot k sl).status = s.status := rfl
@[simp] theorem State.setSlot_hist (s : State) (k : SlotIx) (sl : Slot) : (s.setSlot k sl).hist = s.hist := rfl
@[simp] theorem State.setSlot_port (s : State) (k : SlotIx) (sl : Slot) : (s.setSlot k sl).port = s.port := rfl
@[simp] theorem State.setSlot_resetLine (s : State) (k : SlotIx) (sl : Slot) : (s.setSlot k sl).resetLine = s.resetLine := rfl

/-! ### `State.setLastVoice` -/

@[simp] theorem State.setLastVoice_cfg (s : State) (v : Voice) : (s.setLastVoice v).cfg = s.cfg := rfl
@[simp] theorem State.setLastVoice_pvG (s : State) (v : Voice) : (s.setLastVoice v).pvG = s.pvG := rfl
@[simp] theorem State.setLastVoice_pvO (s : State) (v : Voice) : (s.setLastVoice v).pvO = s.pvO := rfl
@[simp] theorem State.setLastVoice_fb (s : State) (v : Voice) : (s.setLastVoice v).fb = s.fb := rfl
@[simp] theorem State.setLastVoice_slots (s : State) (v : Voice) : (s.setLastVoice v).slots = s.slots := rfl
@[simp] theorem State.setLastVoice_lastVoice (s : State) (v : Voice) : (s.setLastVoice v).lastVoice = v := rfl
@[simp] theorem State.setLastVoice_code (s : State) (v : Voice) : (s.setLastVoice v).code = s.code := rfl
@[simp] theorem State.setLastVoice_status (s : State) (v : Voice) : (s.setLastVoice v).status = s.status := rfl
@[simp] theorem State.setLastVoice_hist (s : State) (v : Voice) : (s.setLastVoice v).hist = s.hist := rfl
@[simp] theorem State.setLastVoice_port (s : State) (v : Voice) : (s.setLastVoice v).port = s.port := rfl
@[simp] theorem State.setLastVoice_resetLine (s : State) (v : Voice) : (s.setLastVoice v).resetLine = s.resetLine := rfl

/-! ### `State.setCode` -/

@[simp] theorem State.setCode_cfg (s : State) (c : Code) : (s.setCode c).cfg = s.cfg := rfl
@[simp] theorem State.setCode_pvG (s : State) (c : Code) : (s.setCode c).pvG = s.pvG := rfl
@[simp] theorem State.setCode_pvO (s : State) (c : Code) : (s.setCode c).pvO = s.pvO := rfl
@[simp] theorem State.setCode_fb (s : State) (c : Code) : (s.setCode c).fb = s.fb := rfl
@[simp] theorem State.setCode_slots (s : State) (c : Code) : (s.setCode c).slots = s.slots := rfl
@[simp] theorem State.setCode_lastVoice (s : State) (c : Code) : (s.setCode c).lastVoice = s.lastVoice := rfl
@[simp] theorem State.setCode_code (s : State) (c : Code) : (s.setCode c).code = c := rfl
@[simp] theorem State.setCode_status (s : State) (c : Code) : (s.setCode c).status = s.status := rfl
@[simp] theorem State.setCode_hist (s : State) (c : Code) : (s.setCode c).hist = s.hist := rfl
@[simp] theorem State.setCode_port (s : State) (c : Code) : (s.setCode c).port = s.port := rfl
@[simp] theorem State.setCode_resetLine (s : State) (c : Code) : (s.setCode c).resetLine = s.resetLine := rfl

/-! ### `State.setInitDone` -/

@[simp] theorem State.setInitDone_cfg (s : State) : s.setInitDone.cfg = s.cfg := rfl
@[simp] theorem State.setInitDone_pvG (s : State) : s.setInitDone.pvG = s.pvG := rfl
@[simp] theorem State.setInitDone_pvO (s : State) : s.setInitDone.pvO = s.pvO := rfl
@[simp] theorem State.setInitDone_fb (s : State) : s.setInitDone.fb = s.fb := rfl
@[simp] theorem State.setInitDone_slots (s : State) : s.setInitDone.slots = s.slots := rfl
@[simp] theorem State.setInitDone_lastVoice (s : State) : s.setInitDone.lastVoice = s.lastVoice := rfl
@[simp] theorem State.setInitDone_code (s : State) : s.setInitDone.code = s.code := rfl
@[simp] theorem State.setInitDone_status (s : State) : s.setInitDone.status = s.status.withInitDone := rfl
@[simp] theorem State.setInitDone_hist (s : State) : s.setInitDone.hist = s.hist := rfl
@[simp] theorem State.setInitDone_port (s : State) : s.setInitDone.port = s.port := rfl
@[simp] theorem State.setInitDone_resetLine (s : State) : s.setInitDone.resetLine = s.resetLine := rfl

/-! ### `State.setInexact` -/

@[simp] theorem State.setInexact_cfg (s : State) (b : Bool) : (s.setInexact b).cfg = s.cfg := rfl
@[simp] theorem State.setInexact_pvG (s : State) (b : Bool) : (s.setInexact b).pvG = s.pvG := rfl
@[simp] theorem State.setInexact_pvO (s : State) (b : Bool) : (s.setInexact b).pvO = s.pvO := rfl
@[simp] theorem State.setInexact_fb (s : State) (b : Bool) : (s.setInexact b).fb = s.fb := rfl
@[simp] theorem State.setInexact_slots (s : State) (b : Bool) : (s.setInexact b).slots = s.slots := rfl
@[simp] theorem State.setInexact_lastVoice (s : State) (b : Bool) : (s.setInexact b).lastVoice = s.lastVoice := rfl
@[simp] theorem State.setInexact_code (s : State) (b : Bool) : (s.setInexact b).code = s.code := rfl
@[simp] theorem State.setInexact_status (s : State) (b : Bool) : (s.setInexact b).status = s.status.withInexact b := rfl
@[simp] theorem State.setInexact_hist (s : State) (b : Bool) : (s.setInexact b).hist = s.hist := rfl
@[simp] theorem State.setInexact_port (s : State) (b : Bool) : (s.setInexact b).port = s.port := rfl
@[simp] theorem State.setInexact_resetLine (s : State) (b : Bool) : (s.setInexact b).resetLine = s.resetLine := rfl

/-! ### `State.setPort` -/

@[simp] theorem State.setPort_cfg (s : State) (ws : List Word) : (s.setPort ws).cfg = s.cfg := rfl
@[simp] theorem State.setPort_pvG (s : State) (ws : List Word) : (s.setPort ws).pvG = s.pvG := rfl
@[simp] theorem State.setPort_pvO (s : State) (ws : List Word) : (s.setPort ws).pvO = s.pvO := rfl
@[simp] theorem State.setPort_fb (s : State) (ws : List Word) : (s.setPort ws).fb = s.fb := rfl
@[simp] theorem State.setPort_slots (s : State) (ws : List Word) : (s.setPort ws).slots = s.slots := rfl
@[simp] theorem State.setPort_lastVoice (s : State) (ws : List Word) : (s.setPort ws).lastVoice = s.lastVoice := rfl
@[simp] theorem State.setPort_code (s : State) (ws : List Word) : (s.setPort ws).code = s.code := rfl
@[simp] theorem State.setPort_status (s : State) (ws : List Word) : (s.setPort ws).status = s.status := rfl
@[simp] theorem State.setPort_hist (s : State) (ws : List Word) : (s.setPort ws).hist = s.hist := rfl
@[simp] theorem State.setPort_port (s : State) (ws : List Word) : (s.setPort ws).port = ws := rfl
@[simp] theorem State.setPort_resetLine (s : State) (ws : List Word) : (s.setPort ws).resetLine = s.resetLine := rfl

/-! ### `State.emitAll` -/

@[simp] theorem State.emitAll_cfg (s : State) (evs : List BusEvent) : (s.emitAll evs).cfg = s.cfg := rfl
@[simp] theorem State.emitAll_pvG (s : State) (evs : List BusEvent) : (s.emitAll evs).pvG = s.pvG := rfl
@[simp] theorem State.emitAll_pvO (s : State) (evs : List BusEvent) : (s.emitAll evs).pvO = s.pvO := rfl
@[simp] theorem State.emitAll_fb (s : State) (evs : List BusEvent) : (s.emitAll evs).fb = s.fb := rfl
@[simp] theorem State.emitAll_slots (s : State) (evs : List BusEvent) : (s.emitAll evs).slots = s.slots := rfl
@[simp] theorem State.emitAll_lastVoice (s : State) (evs : List BusEvent) : (s.emitAll evs).lastVoice = s.lastVoice := rfl
@[simp] theorem State.emitAll_code (s : State) (evs : List BusEvent) : (s.emitAll evs).code = s.code := rfl
@[simp] theorem State.emitAll_status (s : State) (evs : List BusEvent) : (s.emitAll evs).status = s.status := rfl
@[simp] theorem State.emitAll_hist (s : State) (evs : List BusEvent) : (s.emitAll evs).hist = s.hist ++ evs := rfl
@[simp] theorem State.emitAll_port (s : State) (evs : List BusEvent) : (s.emitAll evs).port = s.port := rfl
@[simp] theorem State.emitAll_resetLine (s : State) (evs : List BusEvent) : (s.emitAll evs).resetLine = s.resetLine := rfl

/-! ### `State.takeReset` and `State.resetWith` (R38, R240) -/

@[simp] theorem State.takeReset_cfg (s : State) : s.takeReset.cfg = s.cfg := rfl
@[simp] theorem State.takeReset_pvG (s : State) : s.takeReset.pvG = s.cfg.paramInitG := rfl
@[simp] theorem State.takeReset_pvO (s : State) : s.takeReset.pvO = s.cfg.paramInitO := rfl
@[simp] theorem State.takeReset_fb (s : State) : s.takeReset.fb = Vector.replicate 30 0 := rfl
@[simp] theorem State.takeReset_slots (s : State) : s.takeReset.slots = Vector.replicate 16 Slot.blank := rfl
@[simp] theorem State.takeReset_lastVoice (s : State) : s.takeReset.lastVoice = 0 := rfl
@[simp] theorem State.takeReset_code (s : State) : s.takeReset.code = 0 := rfl
@[simp] theorem State.takeReset_status (s : State) : s.takeReset.status = Status.clear := rfl
@[simp] theorem State.takeReset_hist (s : State) : s.takeReset.hist = [] := rfl
@[simp] theorem State.takeReset_port (s : State) : s.takeReset.port = s.port := rfl
@[simp] theorem State.takeReset_resetLine (s : State) : s.takeReset.resetLine = false := rfl

@[simp] theorem State.resetWith_cfg (c : Config) : (State.resetWith c).cfg = c := rfl
@[simp] theorem State.resetWith_pvG (c : Config) : (State.resetWith c).pvG = c.paramInitG := rfl
@[simp] theorem State.resetWith_pvO (c : Config) : (State.resetWith c).pvO = c.paramInitO := rfl
@[simp] theorem State.resetWith_fb (c : Config) : (State.resetWith c).fb = Vector.replicate 30 0 := rfl
@[simp] theorem State.resetWith_slots (c : Config) : (State.resetWith c).slots = Vector.replicate 16 Slot.blank := rfl
@[simp] theorem State.resetWith_lastVoice (c : Config) : (State.resetWith c).lastVoice = 0 := rfl
@[simp] theorem State.resetWith_code (c : Config) : (State.resetWith c).code = 0 := rfl
@[simp] theorem State.resetWith_status (c : Config) : (State.resetWith c).status = Status.clear := rfl
@[simp] theorem State.resetWith_hist (c : Config) : (State.resetWith c).hist = [] := rfl
@[simp] theorem State.resetWith_port (c : Config) : (State.resetWith c).port = [] := rfl
@[simp] theorem State.resetWith_resetLine (c : Config) : (State.resetWith c).resetLine = false := rfl

/-! ### The fields of STATUS -/

@[simp] theorem Status.withInitDone_initDone (st : Status) : st.withInitDone.initDone = true := rfl
@[simp] theorem Status.withInitDone_fault (st : Status) : st.withInitDone.fault = st.fault := rfl
@[simp] theorem Status.withInitDone_inexact (st : Status) : st.withInitDone.inexact = st.inexact := rfl
@[simp] theorem Status.withInitDone_fcode (st : Status) : st.withInitDone.fcode = st.fcode := rfl
@[simp] theorem Status.withInexact_initDone (st : Status) (b : Bool) : (st.withInexact b).initDone = st.initDone := rfl
@[simp] theorem Status.withInexact_fault (st : Status) (b : Bool) : (st.withInexact b).fault = st.fault := rfl
@[simp] theorem Status.withInexact_inexact (st : Status) (b : Bool) : (st.withInexact b).inexact = b := rfl
@[simp] theorem Status.withInexact_fcode (st : Status) (b : Bool) : (st.withInexact b).fcode = st.fcode := rfl
@[simp] theorem Status.withFault_initDone (st : Status) (c : FaultCode) : (st.withFault c).initDone = st.initDone := rfl
@[simp] theorem Status.withFault_fault (st : Status) (c : FaultCode) : (st.withFault c).fault = true := rfl
@[simp] theorem Status.withFault_inexact (st : Status) (c : FaultCode) : (st.withFault c).inexact = st.inexact := rfl
@[simp] theorem Status.withFault_fcode (st : Status) (c : FaultCode) : (st.withFault c).fcode = c.fcode := rfl
@[simp] theorem Status.clear_initDone : Status.clear.initDone = false := rfl
@[simp] theorem Status.clear_fault : Status.clear.fault = false := rfl
@[simp] theorem Status.clear_inexact : Status.clear.inexact = false := rfl
@[simp] theorem Status.clear_fcode : Status.clear.fcode = 0 := rfl

/-! ### `State.raiseFault` -/

theorem State.raiseFault_faulted {s : State} (h : s.status.fault = true) (c : FaultCode) : s.raiseFault c = s := by
  simp [State.raiseFault, h]

theorem State.raiseFault_entry {s : State} (h : s.status.fault = false) (c : FaultCode) :
    s.raiseFault c = { s with status := s.status.withFault c } := by
  simp [State.raiseFault, h]

@[simp] theorem State.raiseFault_fault (s : State) (c : FaultCode) : (s.raiseFault c).status.fault = true := by
  unfold State.raiseFault; split <;> simp_all

@[simp] theorem State.raiseFault_cfg (s : State) (c : FaultCode) : (s.raiseFault c).cfg = s.cfg := by
  unfold State.raiseFault; split <;> rfl
@[simp] theorem State.raiseFault_pvG (s : State) (c : FaultCode) : (s.raiseFault c).pvG = s.pvG := by
  unfold State.raiseFault; split <;> rfl
@[simp] theorem State.raiseFault_pvO (s : State) (c : FaultCode) : (s.raiseFault c).pvO = s.pvO := by
  unfold State.raiseFault; split <;> rfl
@[simp] theorem State.raiseFault_fb (s : State) (c : FaultCode) : (s.raiseFault c).fb = s.fb := by
  unfold State.raiseFault; split <;> rfl
@[simp] theorem State.raiseFault_slots (s : State) (c : FaultCode) : (s.raiseFault c).slots = s.slots := by
  unfold State.raiseFault; split <;> rfl
@[simp] theorem State.raiseFault_lastVoice (s : State) (c : FaultCode) : (s.raiseFault c).lastVoice = s.lastVoice := by
  unfold State.raiseFault; split <;> rfl
@[simp] theorem State.raiseFault_code (s : State) (c : FaultCode) : (s.raiseFault c).code = s.code := by
  unfold State.raiseFault; split <;> rfl
@[simp] theorem State.raiseFault_hist (s : State) (c : FaultCode) : (s.raiseFault c).hist = s.hist := by
  unfold State.raiseFault; split <;> rfl
@[simp] theorem State.raiseFault_port (s : State) (c : FaultCode) : (s.raiseFault c).port = s.port := by
  unfold State.raiseFault; split <;> rfl
@[simp] theorem State.raiseFault_resetLine (s : State) (c : FaultCode) : (s.raiseFault c).resetLine = s.resetLine := by
  unfold State.raiseFault; split <;> rfl
@[simp] theorem State.raiseFault_initDone (s : State) (c : FaultCode) :
    (s.raiseFault c).status.initDone = s.status.initDone := by
  unfold State.raiseFault; split <;> rfl
@[simp] theorem State.raiseFault_inexact (s : State) (c : FaultCode) :
    (s.raiseFault c).status.inexact = s.status.inexact := by
  unfold State.raiseFault; split <;> rfl

end Sys2Proof.Machine
end

