-- ==== Sys2Proof/Laws/Ops.lean ====
section
/-! SUPPORT. What each shared operation can do, said once. -/

namespace Sys2Proof.Machine

/-! ### Running a command -/

/-- In the fault state a command has no effect (R213). -/
theorem runCommand_faulted {s : State} (h : s.status.fault = true) (body : State → Except FaultCode State) :
    runCommand body s = .next s := by
  simp [runCommand, h]

/-- A body that completes gives its whole effect (R60). -/
theorem runCommand_ok {s t : State} {body : State → Except FaultCode State} (h : s.status.fault = false)
    (hb : body s = .ok t) : runCommand body s = .next t := by
  simp [runCommand, h, hb]

/-- A body that raises a fault changes FAULT and FCODE alone (R212). -/
theorem runCommand_error {s : State} {body : State → Except FaultCode State} {c : FaultCode}
    (h : s.status.fault = false) (hb : body s = .error c) :
    runCommand body s = .next { s with status := s.status.withFault c } := by
  simp [runCommand, h, hb, State.raiseFault]

/-- Everything `runCommand` can answer: a next state, by one of three ways. -/
theorem runCommand_cases {s t : State} {body : State → Except FaultCode State} (h : runCommand body s = .next t) :
    (s.status.fault = true ∧ t = s) ∨
      (s.status.fault = false ∧ body s = .ok t) ∨
      (s.status.fault = false ∧ ∃ c, body s = .error c ∧ t = { s with status := s.status.withFault c }) := by
  cases hf : s.status.fault with
  | true => rw [runCommand_faulted hf] at h; cases h; exact .inl ⟨rfl, rfl⟩
  | false =>
    cases hb : body s with
    | ok u => rw [runCommand_ok hf hb] at h; cases h; exact .inr (.inl ⟨rfl, rfl⟩)
    | error c => rw [runCommand_error hf hb] at h; cases h; exact .inr (.inr ⟨rfl, c, rfl, rfl⟩)

/-- `runCommand` always answers a next state. -/
theorem runCommand_answers (body : State → Except FaultCode State) (s : State) : ∃ t, runCommand body s = .next t := by
  cases hf : s.status.fault with
  | true => exact ⟨s, runCommand_faulted hf body⟩
  | false =>
    cases hb : body s with
    | ok u => exact ⟨u, runCommand_ok hf hb⟩
    | error c => exact ⟨_, runCommand_error hf hb⟩

theorem requireInit_ok {s : State} (h : s.status.initDone = true) (body : State → Except FaultCode State) :
    requireInit body s = body s := by
  simp [requireInit, h]

theorem requireInit_error {s : State} (h : s.status.initDone = false) (body : State → Except FaultCode State) :
    requireInit body s = .error .notInitialized := by
  simp [requireInit, h]

/-! ### Register files -/

@[simp] theorem State.setParamG_length (s : State) (i : Nat) (v : Byte) :
    (s.setParamG i v).pvG.length = s.pvG.length := by
  simp

/-- Reading PV_G after a write (R21). -/
theorem State.paramG_setParamG (s : State) (i j : Nat) (v : Byte) (h : i < s.pvG.length) :
    (s.setParamG i v).paramG j = if i = j then v else s.paramG j := by
  unfold State.paramG
  by_cases hij : i = j
  · subst hij; simp [h]
  · simp [List.getD_eq_getElem?_getD, List.getElem?_set_ne hij, hij]

/-- A slot after a write to one slot. -/
theorem State.setSlot_getElem (s : State) (k j : SlotIx) (sl : Slot) :
    (s.setSlot k sl).slots[j] = if k = j then sl else s.slots[j] := by
  rw [State.setSlot_slots]
  by_cases h : k = j
  · subst h; simp
  · have : k.val ≠ j.val := fun e => h (Fin.ext e)
    simp [h, this]

/-! ### Bus events -/

theorem State.emitAll_append (s : State) (a b : List BusEvent) : (s.emitAll a).emitAll b = s.emitAll (a ++ b) := by
  simp [State.emitAll]

/-- A note-off is one write of the voice index to register 0x0F (R130, R152). -/
theorem noteEventWrites_off (c : Config) (v : Voice) (hi lo : Byte) :
    noteEventWrites c v hi lo 0 = [.write Config.regKey (v.setWidth 8)] := by
  simp [noteEventWrites]

/-- A note-on is five writes, the strobe last (R130). -/
theorem noteEventWrites_on (c : Config) (v : Voice) (hi lo : Byte) {vel : Velocity} (h : vel ≠ 0#7) :
    noteEventWrites c v hi lo vel =
      [.write c.regVsel (v.setWidth 8), .write c.regVel (vel.setWidth 8 &&& Config.velMask), .write c.regPhi hi,
        .write c.regPlo lo, .write Config.regKey (Config.keyonBit ||| v.setWidth 8)] :=
  if_neg h

/-- The note-event writes hold no Burst. -/
theorem noteEventWrites_no_burst (c : Config) (v : Voice) (hi lo : Byte) (vel : Velocity) (bs : List Byte) :
    BusEvent.burst bs ∉ noteEventWrites c v hi lo vel := by
  unfold noteEventWrites; split <;> simp

/-- A burst group is never empty. -/
theorem burstGroup_ne_nil (c : Config) (bs : List Byte) : burstGroup c bs ≠ [] := by
  simp [burstGroup]

end Sys2Proof.Machine
end

