-- ==== Sys2Proof/Laws/Allocator.lean ====
section
/-! SUPPORT. What each step of the voice allocator does, said once (43_voice_allocator.md). -/

namespace Sys2Proof.Machine

theorem Slot.sounds_iff (n : Byte) (sl : Slot) : sl.sounds n = true ↔ sl.st = .active ∧ sl.note = n := by
  simp [Slot.sounds]

/-- The retrigger step, slot by slot (R153). -/
theorem retriggerSlots_getElem (slots : Vector Slot 16) (n : Byte) (k : SlotIx) :
    (retriggerSlots slots n)[k] = if slots[k].sounds n then Slot.released n else slots[k] := by
  simp [retriggerSlots]

theorem mem_soundingSlots (slots : Vector Slot 16) (n : Byte) (k : SlotIx) :
    k ∈ soundingSlots slots n ↔ slots[k].sounds n = true := by
  simp [soundingSlots]

/-- The aging step, slot by slot (R156). -/
theorem ageOthers_getElem (slots : Vector Slot 16) (sel k : SlotIx) :
    (ageOthers slots sel)[k] =
      if k ≠ sel ∧ slots[k].st ≠ .free then { slots[k] with age := satInc slots[k].age } else slots[k] := by
  simp [ageOthers]

/-- Aging changes no slot's state and no slot's note. -/
theorem agedSlots_st_note (c : Config) (slots : Vector Slot 16) (sel : SlotIx) (evict : Bool) (k : SlotIx) :
    (agedSlots c slots sel evict)[k].st = slots[k].st ∧ (agedSlots c slots sel evict)[k].note = slots[k].note := by
  unfold agedSlots
  split
  · rw [ageOthers_getElem]; split <;> exact ⟨rfl, rfl⟩
  · exact ⟨rfl, rfl⟩

/-- The selected slot does not age (R156). -/
theorem agedSlots_sel (c : Config) (slots : Vector Slot 16) (sel : SlotIx) (evict : Bool) :
    (agedSlots c slots sel evict)[sel] = slots[sel] := by
  unfold agedSlots
  split
  · rw [ageOthers_getElem]; simp
  · rfl

theorem occupySlot_getElem (slots : Vector Slot 16) (sel k : SlotIx) (n : Byte) :
    (occupySlot slots sel n)[k] = if k = sel then Slot.occupied n else slots[k] := by
  unfold occupySlot
  by_cases h : k = sel
  · subst h; simp
  · have : sel.val ≠ k.val := fun e => h (Fin.ext e.symm)
    simp [h, this]

/-- The bus event of a hardware note-off (R152). -/
theorem hardwareNoteOff_eq (c : Config) (k : SlotIx) :
    hardwareNoteOff c k = [.write Config.regKey (BitVec.ofNat 8 k.val)] := by
  unfold hardwareNoteOff
  rw [noteEventWrites_off]
  revert k; decide

/-! ### Selection -/

/-- The first slot found in ascending order is the lowest one. -/
theorem find_finRange_some {p : SlotIx → Bool} {k : SlotIx} (h : (List.finRange 16).find? p = some k) :
    p k = true ∧ ∀ j : SlotIx, j < k → p j = false := by
  rw [List.find?_eq_some_iff_getElem] at h
  obtain ⟨hk, i, hi, hik, hlow⟩ := h
  refine ⟨hk, fun j hj => ?_⟩
  have hki : k.val = i := by rw [← hik]; simp
  have hjk : j.val < i := hki ▸ Fin.lt_def.mp hj
  simpa using hlow j.val hjk

/-- No slot satisfies a test that finds none. -/
theorem find_finRange_none {p : SlotIx → Bool} (h : (List.finRange 16).find? p = none) (k : SlotIx) : p k = false := by
  rw [List.find?_eq_none] at h
  simpa using h k (List.mem_finRange k)

/-- A Free slot that was selected is the lowest one (R154). -/
theorem firstFree_some {slots : Vector Slot 16} {k : SlotIx} (h : firstFree slots = some k) :
    slots[k].st = .free ∧ ∀ j : SlotIx, j < k → slots[j].st ≠ .free := by
  obtain ⟨hk, hlow⟩ := find_finRange_some h
  exact ⟨by simpa using hk, fun j hj => by simpa using hlow j hj⟩

/-- No slot is Free when the Free-first selection finds none (R155). -/
theorem firstFree_none {slots : Vector Slot 16} (h : firstFree slots = none) (k : SlotIx) : slots[k].st ≠ .free := by
  simpa using find_finRange_none h k

/-- The age scan over an ascending list of slots above the best one so far answers one of them, which has the greatest age
and is the lowest of that age (R155). -/
theorem ageScan_spec (slots : Vector Slot 16) (ks : List SlotIx) (best : SlotIx)
    (hasc : (best :: ks).Pairwise (· < ·)) :
    ks.foldl (olderSlot slots) best ∈ best :: ks ∧
      (∀ k ∈ best :: ks, slotAge slots k ≤ slotAge slots (ks.foldl (olderSlot slots) best)) ∧
      ∀ k ∈ best :: ks, k < ks.foldl (olderSlot slots) best →
        slotAge slots k < slotAge slots (ks.foldl (olderSlot slots) best) := by
  induction ks generalizing best with
  | nil => simp
  | cons k ks ih =>
    obtain ⟨hbest, hks⟩ := List.pairwise_cons.mp hasc
    have hk := List.pairwise_cons.mp hks
    have hbk : best < k := hbest k (by simp)
    rw [List.foldl_cons]
    by_cases h : slotAge slots k > slotAge slots best
    · have hstep : olderSlot slots best k = k := if_pos h
      rw [hstep]
      obtain ⟨hm, hmax, hlow⟩ := ih k hks
      have hkmax := hmax k (by simp)
      refine ⟨List.mem_cons_of_mem _ hm, fun j hj => ?_, fun j hj hlt => ?_⟩
      · rcases List.mem_cons.mp hj with rfl | hj
        · omega
        · exact hmax j hj
      · rcases List.mem_cons.mp hj with rfl | hj
        · omega
        · exact hlow j hj hlt
    · have hstep : olderSlot slots best k = best := if_neg h
      rw [hstep]
      obtain ⟨hm, hmax, hlow⟩ := ih best
        (List.pairwise_cons.mpr ⟨fun j hj => hbest j (List.mem_cons_of_mem _ hj), hk.2⟩)
      have hbmax := hmax best (by simp)
      refine ⟨?_, fun j hj => ?_, fun j hj hlt => ?_⟩
      · rcases List.mem_cons.mp hm with e | hm
        · rw [e]; simp
        · exact List.mem_cons_of_mem _ (List.mem_cons_of_mem _ hm)
      · rcases List.mem_cons.mp hj with rfl | hj
        · exact hbmax
        · rcases List.mem_cons.mp hj with rfl | hj
          · omega
          · exact hmax j (List.mem_cons_of_mem _ hj)
      · rcases List.mem_cons.mp hj with rfl | hj
        · exact hlow j (by simp) hlt
        · rcases List.mem_cons.mp hj with rfl | hj
          · rcases List.mem_cons.mp hm with e | hm
            · rw [e] at hlt; exact absurd hlt (lt_asymm hbk)
            · have := hlow best (by simp) (hbest _ (List.mem_cons_of_mem _ hm))
              omega
          · exact hlow j (List.mem_cons_of_mem _ hj) hlt

/-- The slot selected by age has the greatest age and is the lowest of that age (R155). -/
theorem oldestSlot_spec (slots : Vector Slot 16) :
    (∀ k : SlotIx, slotAge slots k ≤ slotAge slots (oldestSlot slots)) ∧
      ∀ k : SlotIx, k < oldestSlot slots → slotAge slots k < slotAge slots (oldestSlot slots) := by
  have h := ageScan_spec slots (List.finRange 16).tail 0 (by decide)
  have hmem : ∀ k : SlotIx, k ∈ (0 : SlotIx) :: (List.finRange 16).tail := by decide
  exact ⟨fun k => h.2.1 k (hmem k), fun k => h.2.2 k (hmem k)⟩

/-- Everything `selectSlot` can answer (R154, R155). -/
theorem selectSlot_cases (slots : Vector Slot 16) :
    (∃ k : SlotIx, selectSlot slots = (k, false) ∧ slots[k].st = .free ∧ ∀ j : SlotIx, j < k → slots[j].st ≠ .free) ∨
      (selectSlot slots = (oldestSlot slots, true) ∧ ∀ k : SlotIx, slots[k].st ≠ .free) := by
  cases h : firstFree slots with
  | some k => exact .inl ⟨k, by simp [selectSlot, h], firstFree_some h⟩
  | none => exact .inr ⟨by simp [selectSlot, h], firstFree_none h⟩

/-! ### NOTEON and NOTEOFF -/

/-- Everything a note-on does: with the slot selected after the retrigger step, the slots, LAST_VOICE and HIST get their
new values and nothing else changes (R153 to R159). -/
theorem noteOnEffect_form (n : Byte) (vel : Velocity) (s : State) :
    ∃ (sel : SlotIx) (evict : Bool), selectSlot (retriggerSlots s.slots n) = (sel, evict) ∧
      noteOnEffect n vel s =
        { s with
          slots := occupySlot (agedSlots s.cfg (retriggerSlots s.slots n) sel evict) sel n
          lastVoice := voiceOfSlot sel
          hist := s.hist ++ retriggerNoteOffs s.cfg s.slots n ++
            evictionNoteOff s.cfg (agedSlots s.cfg (retriggerSlots s.slots n) sel evict) sel ++
            noteOnWrites s.cfg sel n vel } := by
  cases h : selectSlot (retriggerSlots s.slots n) with
  | mk sel evict =>
    exact ⟨sel, evict, rfl, by
      simp only [noteOnEffect, h, takeSlot, State.emitAll, State.setSlots, State.setLastVoice]⟩

/-- The retrigger note-offs are one write per sounding slot, in slot order (R152, R153). -/
theorem retriggerNoteOffs_eq (c : Config) (slots : Vector Slot 16) (n : Byte) :
    retriggerNoteOffs c slots n =
      (soundingSlots slots n).map fun k => BusEvent.write Config.regKey (BitVec.ofNat 8 k.val) := by
  unfold retriggerNoteOffs
  induction soundingSlots slots n with
  | nil => rfl
  | cons k ks ih => rw [List.flatMap_cons, ih, hardwareNoteOff_eq]; rfl

/-- The eviction note-off is one write, of a selected slot that is Active (R157). -/
theorem evictionNoteOff_eq (c : Config) (slots : Vector Slot 16) (sel : SlotIx) :
    evictionNoteOff c slots sel =
      if slots[sel].st = .active then [BusEvent.write Config.regKey (BitVec.ofNat 8 sel.val)] else [] := by
  unfold evictionNoteOff
  rw [hardwareNoteOff_eq]
  by_cases h : slots[sel].st = .active <;> simp

/-- Everything a note-off can do (R160). -/
theorem noteOffEffect_cases (n : Byte) (s : State) :
    ((∀ k : SlotIx, s.slots[k].sounds n = false) ∧ noteOffEffect n s = s) ∨
      ∃ k : SlotIx, s.slots[k].sounds n = true ∧ (∀ j : SlotIx, j < k → s.slots[j].sounds n = false) ∧
        noteOffEffect n s = (s.emitAll (hardwareNoteOff s.cfg k)).setSlot k (Slot.released n) := by
  unfold noteOffEffect
  cases h : (List.finRange 16).find? fun k => s.slots[k].sounds n with
  | none => exact .inl ⟨find_finRange_none h, rfl⟩
  | some k => exact .inr ⟨k, (find_finRange_some h).1, (find_finRange_some h).2, rfl⟩

end Sys2Proof.Machine
end

