-- ==== Sys2Proof/Laws/Assembler.lean ====
section
/-! SUPPORT. What the assembler's shared operations can answer (30_encoding.md R90, R91). -/

namespace Sys2Proof.Machine

/-- An integer operand that is taken is the integer its text denotes, and in range. -/
theorem parseBelow_some {bound n : Nat} {cs : List Char} (h : parseBelow bound cs = some n) :
    parseInteger cs = some n ∧ n < bound := by
  unfold parseBelow at h
  cases hp : parseInteger cs with
  | none => simp [hp] at h
  | some m =>
    simp only [hp] at h
    split at h
    · cases h; exact ⟨rfl, ‹_›⟩
    · cases h

/-- An integer operand out of range is refused. -/
theorem parseBelow_none {bound n : Nat} {cs : List Char} (h : parseInteger cs = some n) (hn : bound ≤ n) :
    parseBelow bound cs = none := by
  simp [parseBelow, h, hn]

/-- A descriptor operand that is taken gives an index of the list, the text's own if the text is an integer. -/
theorem parseDescriptor_some {ds : List Descriptor} {n : Nat} {cs : List Char} (h : parseDescriptor ds cs = some n) :
    n < ds.length ∧ ∀ m, parseInteger cs = some m → m = n := by
  unfold parseDescriptor at h
  cases hp : parseInteger cs with
  | none =>
    simp only [hp] at h
    exact ⟨(List.findIdx?_eq_some_iff_findIdx_eq.mp h).1, by simp⟩
  | some m =>
    simp only [hp] at h
    split at h
    · cases h; exact ⟨‹_›, fun _ h => (Option.some.inj h).symm⟩
    · cases h

/-- A descriptor index out of range is refused. -/
theorem parseDescriptor_none {ds : List Descriptor} {n : Nat} {cs : List Char} (h : parseInteger cs = some n)
    (hn : ds.length ≤ n) : parseDescriptor ds cs = none := by
  simp [parseDescriptor, h, hn]

/-- Everything `assembleLine` can answer: the command its tokens stand for, nothing for an empty line, or a refusal. -/
theorem assembleLine_cases (c : Config) (line : String) :
    (lineTokens line = none ∧ assembleLine c line = .empty) ∨
      ∃ mnemonic ops, lineTokens line = some (mnemonic, ops) ∧
        ((∃ i, parseCommand c mnemonic ops = some i ∧ assembleLine c line = .command i) ∨
          (parseCommand c mnemonic ops = none ∧ assembleLine c line = .refused)) := by
  unfold assembleLine
  cases ht : lineTokens line with
  | none => exact .inl ⟨rfl, rfl⟩
  | some mo =>
    refine .inr ⟨mo.1, mo.2, rfl, ?_⟩
    cases hc : parseCommand c mo.1 mo.2 with
    | none => exact .inr ⟨rfl, by simp [hc]⟩
    | some i => exact .inl ⟨i, rfl, by simp [hc]⟩

end Sys2Proof.Machine
end

