-- ==== Sys2Proof/Laws/Decode.lean ====
section
/-! SUPPORT. What the decoder can answer, said once, and the fields of encoded words. -/

namespace Sys2Proof

/-! ### The opcode map -/

@[simp] theorem opcodeOf_opcodeValue (op : Opcode) : opcodeOf (opcodeValue op) = some op := by
  cases op <;> rfl

/-- An OPC is listed exactly when it is one of 0x1 to 0xA (R84). -/
theorem opcodeOf_eq_none_iff (opc : BitVec 4) : opcodeOf opc = none ↔ opc = 0x0 ∨ 0xB ≤ opc.toNat := by
  revert opc; decide

theorem opcodeOf_eq_some_iff (opc : BitVec 4) (op : Opcode) : opcodeOf opc = some op ↔ opc = opcodeValue op := by
  revert opc; cases op <;> decide

/-! ### The decoder -/

theorem decode_nil : decode [] = .incomplete := rfl

/-- A reserved OPC is illegal and takes one word (R86). -/
theorem decode_reserved {w : Word} (after : List Word) (h : opcodeOf (opcodeField w) = none) :
    decode (w :: after) = .illegal .reservedOpcode after := by
  simp [decode, h]

/-- A command whose operand words have not all been presented is incomplete. -/
theorem decode_short {w : Word} {after : List Word} {op : Opcode} (h : opcodeOf (opcodeField w) = some op)
    (hl : after.length < operandWords op) : decode (w :: after) = .incomplete := by
  simp [decode, h, hl]

/-- A whole command with its reserved bits 0 decodes to its fields (R77 to R83). -/
theorem decode_command {w : Word} {after : List Word} {op : Opcode} (h : opcodeOf (opcodeField w) = some op)
    (hl : operandWords op ≤ after.length) (hr : w &&& reservedMask op = 0) :
    decode (w :: after) =
      .command (readCommand op w (after.take (operandWords op))) (after.drop (operandWords op)) := by
  simp [decode, h, Nat.not_lt.mpr hl, hr]

/-- A set reserved bit is illegal and the operand words are consumed (R87). -/
theorem decode_reservedBits {w : Word} {after : List Word} {op : Opcode} (h : opcodeOf (opcodeField w) = some op)
    (hl : operandWords op ≤ after.length) (hr : w &&& reservedMask op ≠ 0) :
    decode (w :: after) = .illegal .reservedBits (after.drop (operandWords op)) := by
  simp only [decode, h]
  rw [if_neg (Nat.not_lt.mpr hl), if_neg hr]

/-- Everything the decoder can answer for a stream that is not empty. -/
theorem decode_cons_cases (w : Word) (after : List Word) :
    (opcodeOf (opcodeField w) = none ∧ decode (w :: after) = .illegal .reservedOpcode after) ∨
      ∃ op, opcodeOf (opcodeField w) = some op ∧
        ((after.length < operandWords op ∧ decode (w :: after) = .incomplete) ∨
          (operandWords op ≤ after.length ∧ w &&& reservedMask op = 0 ∧ decode (w :: after) =
            .command (readCommand op w (after.take (operandWords op))) (after.drop (operandWords op))) ∨
          (operandWords op ≤ after.length ∧ w &&& reservedMask op ≠ 0 ∧
            decode (w :: after) = .illegal .reservedBits (after.drop (operandWords op)))) := by
  cases h : opcodeOf (opcodeField w) with
  | none => exact .inl ⟨rfl, decode_reserved after h⟩
  | some op =>
    refine .inr ⟨op, rfl, ?_⟩
    rcases Nat.lt_or_ge after.length (operandWords op) with hl | hl
    · exact .inl ⟨hl, decode_short h hl⟩
    · by_cases hr : w &&& reservedMask op = 0
      · exact .inr (.inl ⟨hl, hr, decode_command h hl hr⟩)
      · exact .inr (.inr ⟨hl, hr, decode_reservedBits h hl hr⟩)

theorem readCommand_opcode (op : Opcode) (w : Word) (ops : List Word) : (readCommand op w ops).opcode = op := by
  cases op <;> rfl

/-! ### Bits of encoded words -/

/-- A bit of a placed field: field bit `i - lo` at bit `i`. -/
theorem getLsbD_placeField {n : Nat} (lo : Nat) (v : BitVec n) (i : Nat) :
    (placeField lo v).getLsbD i = (decide (i < 32) && !decide (i < lo) && v.getLsbD (i - lo)) := by
  simp only [placeField, BitVec.getLsbD_shiftLeft, BitVec.getLsbD_setWidth]
  by_cases h : i < 32 <;> by_cases h' : i < lo <;> simp [h, h']
  intro _; omega

/-- A bit of the OPC of an encoded word. -/
theorem getLsbD_opcodeBits (op : Opcode) (i : Nat) :
    (opcodeBits op).getLsbD i = (decide (i < 32) && !decide (i < 28) && (opcodeValue op).getLsbD (i - 28)) :=
  getLsbD_placeField 28 (opcodeValue op) i

/-- The OPC of a word made of an opcode and bits below 28 (R75). -/
theorem opcodeField_of_low {op : Opcode} {x : Word} (h : ∀ i, 28 ≤ i → x.getLsbD i = false) :
    opcodeField (opcodeBits op ||| x) = opcodeValue op := by
  refine BitVec.eq_of_getLsbD_eq fun i hi => ?_
  simp only [opcodeField, BitVec.getLsbD_extractLsb', BitVec.getLsbD_or, getLsbD_opcodeBits, h (28 + i) (by omega)]
  simp [hi, show 28 + i < 32 by omega]

end Sys2Proof
end

