-- ==== Sys2Proof/Laws/Exec.lean ====
section
/-! SUPPORT. What each command can do, said once: its body, and everything the body can answer. -/

namespace Sys2Proof.Machine

/-- The body of a command: its pseudocode, run by `runCommand`. -/
def commandBody : Instr → State → Except FaultCode State
  | .setup => setupBody
  | .pwrg idx val => pwrgBody idx val
  | .pwro idx opi val => pwroBody idx opi val
  | .encframe => encframeBody
  | .sendframe => sendframeBody
  | .noteon note vel => noteonBody note vel
  | .noteoff note => noteoffBody note
  | .noteev voice hi lo vel => noteevBody voice hi lo vel
  | .coefenc x => coefencBody x
  | .eqwr unit b0 b1 b2 a1 a2 => eqwrBody unit b0 b1 b2 a1 a2

/-- Every command runs its body through the one shared operation. -/
theorem exec_eq_runCommand (i : Instr) (s : State) : exec i s = runCommand (commandBody i) s := by
  cases i <;> rfl

/-- Everything `exec` can answer: a next state, reached in one of three ways. -/
theorem exec_cases {i : Instr} {s t : State} (h : exec i s = .next t) :
    (s.status.fault = true ∧ t = s) ∨
      (s.status.fault = false ∧ commandBody i s = .ok t) ∨
      (s.status.fault = false ∧ ∃ c, commandBody i s = .error c ∧ t = { s with status := s.status.withFault c }) :=
  runCommand_cases (exec_eq_runCommand i s ▸ h)

/-! ### Everything a body that completes does -/

theorem setupBody_ok {s t : State} (h : setupBody s = .ok t) :
    t = (s.emitAll (s.cfg.initProgram.map setupEvent)).setInitDone := by
  cases h; rfl

theorem pwrgBody_ok {idx val : Byte} {s t : State} (h : pwrgBody idx val s = .ok t) :
    idx.toNat < s.cfg.dg.length ∧ t = s.setParamG idx.toNat val := by
  unfold pwrgBody at h; split at h <;> cases h; exact ⟨‹_›, rfl⟩

theorem pwroBody_ok {idx : Byte} {opi : BitVec 2} {val : Byte} {s t : State} (h : pwroBody idx opi val s = .ok t) :
    idx.toNat < s.cfg.dop.length ∧ t = s.setParamO opi.toFin idx.toNat val := by
  unfold pwroBody at h; split at h <;> cases h; exact ⟨‹_›, rfl⟩

theorem encframeBody_ok {s t : State} (h : encframeBody s = .ok t) : t = s.setFb s.voiceFrame := by
  cases h; rfl

/-- A body behind the INIT_DONE gate completes only with INIT_DONE set. -/
theorem requireInit_cases {body : State → Except FaultCode State} {s t : State} (h : requireInit body s = .ok t) :
    s.status.initDone = true ∧ body s = .ok t := by
  unfold requireInit at h; split at h
  · exact ⟨‹_›, h⟩
  · cases h

theorem sendframeBody_ok {s t : State} (h : sendframeBody s = .ok t) :
    s.status.initDone = true ∧
      t = (s.setFb s.voiceFrame).emitAll (burstGroup s.cfg (voicePayload s.cfg s.voiceFrame)) := by
  obtain ⟨hi, hb⟩ := requireInit_cases h
  cases hb; exact ⟨hi, rfl⟩

theorem noteonBody_ok {note : Byte} {vel : Velocity} {s t : State} (h : noteonBody note vel s = .ok t) :
    s.status.initDone = true ∧
      ((vel = 0#7 ∧ t = noteOffEffect note s) ∨ (vel ≠ 0#7 ∧ t = noteOnEffect note vel s)) := by
  obtain ⟨hi, hb⟩ := requireInit_cases h
  cases hb
  by_cases hv : vel = 0#7 <;> simp [hi, hv]

theorem noteoffBody_ok {note : Byte} {s t : State} (h : noteoffBody note s = .ok t) :
    s.status.initDone = true ∧ t = noteOffEffect note s := by
  obtain ⟨hi, hb⟩ := requireInit_cases h
  cases hb; exact ⟨hi, rfl⟩

theorem noteevBody_ok {v : Voice} {hi lo : Byte} {vel : Velocity} {s t : State}
    (h : noteevBody v hi lo vel s = .ok t) :
    s.status.initDone = true ∧ t = s.emitAll (noteEventWrites s.cfg v hi lo vel) := by
  obtain ⟨hd, hb⟩ := requireInit_cases h
  cases hb; exact ⟨hd, rfl⟩

theorem coefencBody_ok {x : Binary64} {s t : State} (h : coefencBody x s = .ok t) :
    ∃ r, coeffEncode x = .ok r ∧ t = (s.setCode r.1).setInexact r.2 := by
  unfold coefencBody at h
  cases hx : coeffEncode x with
  | error c => rw [hx] at h; cases h
  | ok r => rw [hx] at h; cases h; exact ⟨r, rfl, rfl⟩

theorem eqwrBody_ok {u : BitVec 2} {b0 b1 b2 a1 a2 : Binary64} {s t : State}
    (h : eqwrBody u b0 b1 b2 a1 a2 s = .ok t) :
    u.toNat < 3 ∧ s.status.initDone = true ∧ ∃ r0 r1 r2 r3 r4,
      coeffEncode b0 = .ok r0 ∧ coeffEncode b1 = .ok r1 ∧ coeffEncode b2 = .ok r2 ∧ coeffEncode a1 = .ok r3 ∧
      coeffEncode a2 = .ok r4 ∧
      t = (s.emitAll (burstGroup s.cfg (eqFrame u r0.1 r1.1 r2.1 r3.1 r4.1))).setInexact
        (r0.2 || r1.2 || r2.2 || r3.2 || r4.2) := by
  unfold eqwrBody at h
  split at h
  · obtain ⟨hi, hb⟩ := requireInit_cases h
    unfold eqwrEffect at hb
    cases h0 : coeffEncode b0 with
    | error => rw [h0] at hb; cases hb
    | ok r0 =>
    cases h1 : coeffEncode b1 with
    | error => rw [h0, h1] at hb; cases hb
    | ok r1 =>
    cases h2 : coeffEncode b2 with
    | error => rw [h0, h1, h2] at hb; cases hb
    | ok r2 =>
    cases h3 : coeffEncode a1 with
    | error => rw [h0, h1, h2, h3] at hb; cases hb
    | ok r3 =>
    cases h4 : coeffEncode a2 with
    | error => rw [h0, h1, h2, h3, h4] at hb; cases hb
    | ok r4 =>
      rw [h0, h1, h2, h3, h4] at hb
      cases hb
      exact ⟨‹_›, hi, r0, r1, r2, r3, r4, rfl, rfl, rfl, rfl, rfl, rfl⟩
  · cases h

end Sys2Proof.Machine
end

