-- ==== Sys2Proof/Laws/PerInstr.lean ====
section
/-! SUPPORT. The per-instruction family EncodedForm: the first word of a command's encoding carries the command's OPC, and
the number of words is the one OPC announces (30_encoding.md R75, R84, R89). -/

namespace Sys2Proof.Laws

/-- The encoding starts with a word of the command's opcode and has as many words as that opcode announces. -/
def EncodedForm.Statement (i : Instr) : Prop :=
  ∃ w ops, encode i = w :: ops ∧ opcodeOf (opcodeField w) = some i.opcode ∧ ops.length = operandWords i.opcode

/-- A field placed below bit 28 leaves OPC alone. -/
theorem placeField_low {n : Nat} {lo : Nat} (v : BitVec n) (h : lo + n ≤ 28) :
    ∀ i, 28 ≤ i → (placeField lo v).getLsbD i = false := by
  intro i hi
  rw [getLsbD_placeField, BitVec.getLsbD_of_ge v (i - lo) (by omega)]
  simp

/-- The OR of two words that are 0 from bit 28 on. -/
theorem or_low {x y : Word} (hx : ∀ i, 28 ≤ i → x.getLsbD i = false) (hy : ∀ i, 28 ≤ i → y.getLsbD i = false) :
    ∀ i, 28 ≤ i → (x ||| y).getLsbD i = false := by
  intro i hi
  simp [hx i hi, hy i hi]

/-- The OPC of a bare opcode word. -/
theorem opcodeField_opcodeBits (op : Opcode) : opcodeField (opcodeBits op) = opcodeValue op := by
  cases op <;> decide

theorem EncodedForm.setup : EncodedForm.Statement .setup :=
  ⟨_, _, rfl, by rw [opcodeField_opcodeBits]; rfl, rfl⟩

theorem EncodedForm.pwrg (idx val : Byte) : EncodedForm.Statement (.pwrg idx val) := by
  refine ⟨_, _, rfl, ?_, rfl⟩
  rw [BitVec.or_assoc, opcodeField_of_low (or_low (placeField_low idx (by decide)) (placeField_low val (by decide)))]
  rfl

theorem EncodedForm.pwro (idx : Byte) (opi : BitVec 2) (val : Byte) : EncodedForm.Statement (.pwro idx opi val) := by
  refine ⟨_, _, rfl, ?_, rfl⟩
  rw [BitVec.or_assoc, BitVec.or_assoc, opcodeField_of_low (or_low (placeField_low idx (by decide))
    (or_low (placeField_low opi (by decide)) (placeField_low val (by decide))))]
  rfl

theorem EncodedForm.encframe : EncodedForm.Statement .encframe :=
  ⟨_, _, rfl, by rw [opcodeField_opcodeBits]; rfl, rfl⟩

theorem EncodedForm.sendframe : EncodedForm.Statement .sendframe :=
  ⟨_, _, rfl, by rw [opcodeField_opcodeBits]; rfl, rfl⟩

theorem EncodedForm.noteon (note : Byte) (vel : Velocity) : EncodedForm.Statement (.noteon note vel) := by
  refine ⟨_, _, rfl, ?_, rfl⟩
  rw [BitVec.or_assoc, opcodeField_of_low (or_low (placeField_low note (by decide)) (placeField_low vel (by decide)))]
  rfl

theorem EncodedForm.noteoff (note : Byte) : EncodedForm.Statement (.noteoff note) := by
  refine ⟨_, _, rfl, ?_, rfl⟩
  rw [opcodeField_of_low (placeField_low note (by decide))]
  rfl

theorem EncodedForm.noteev (voice : Voice) (hi lo : Byte) (vel : Velocity) :
    EncodedForm.Statement (.noteev voice hi lo vel) := by
  refine ⟨_, _, rfl, ?_, rfl⟩
  rw [BitVec.or_assoc, BitVec.or_assoc, BitVec.or_assoc,
    opcodeField_of_low (or_low (placeField_low voice (by decide)) (or_low (placeField_low hi (by decide))
      (or_low (placeField_low lo (by decide)) (placeField_low vel (by decide)))))]
  rfl

theorem EncodedForm.coefenc (x : Binary64) : EncodedForm.Statement (.coefenc x) :=
  ⟨_, _, rfl, by rw [opcodeField_opcodeBits]; rfl, rfl⟩

theorem EncodedForm.eqwr (unit : BitVec 2) (b0 b1 b2 a1 a2 : Binary64) :
    EncodedForm.Statement (.eqwr unit b0 b1 b2 a1 a2) := by
  refine ⟨_, _, rfl, ?_, rfl⟩
  rw [opcodeField_of_low (placeField_low unit (by decide))]
  rfl

end Sys2Proof.Laws
end

