-- ==== Sys2Proof/Laws/Step.lean ====
section
/-! SUPPORT. Everything a step can do, said once. -/

namespace Sys2Proof.Machine

/-- A step that answers a next state ran an admitted configuration and either took the reset, or executed the command at
the port, or raised the fault of an illegal word, or waited. -/
theorem step_cases {s t : State} (h : step s = .next t) :
    s.cfg.wellFormed = true ∧
      ((s.resetLine = true ∧ t = s.takeReset) ∨
        (s.resetLine = false ∧
          ((∃ i rest, s.nextCommand = .command i rest ∧ exec i (s.setPort rest) = .next t) ∨
            (∃ why rest, s.nextCommand = .illegal why rest ∧
              t = (s.setPort rest).raiseFault (illegalWordFault why)) ∨
            (s.nextCommand = .incomplete ∧ t = s)))) := by
  unfold step at h
  cases hw : s.cfg.wellFormed with
  | false => simp [hw] at h
  | true =>
    refine ⟨rfl, ?_⟩
    cases hr : s.resetLine with
    | true => simp [hw, hr] at h; exact .inl ⟨rfl, h.symm⟩
    | false =>
      refine .inr ⟨rfl, ?_⟩
      cases hn : s.nextCommand with
      | command i rest => simp [hw, hr, hn] at h; exact .inl ⟨i, rest, rfl, h⟩
      | illegal why rest => simp [hw, hr, hn] at h; exact .inr (.inl ⟨why, rest, rfl, h.symm⟩)
      | incomplete => simp [hw, hr, hn] at h; exact .inr (.inr ⟨rfl, h.symm⟩)

end Sys2Proof.Machine
end

