-- ==== Sys2Proof/Tests/Slice0.lean ====
section
/-! SUPPORT. Tests of the model: words and results taken from the spec's own encodings and vectors (30_encoding.md R92,
95_test_vectors.md), the checks of WellFormed each refusing an ill-formed term, and for every statement with hypotheses a
state and operands that meet them. -/

namespace Sys2Proof.Tests
open Sys2Proof.Machine

set_option maxRecDepth 4000

/-! ### States used below -/

/-- After reset and SETUP's status change, with nothing in HIST. -/
def ready : State := State.reset.setInitDone

/-- `ready` with the given slots. -/
def readyWith (slots : Vector Slot 16) : State := ready.setSlots slots

/-- `ready` with slot 0 sounding a note. -/
def sounding (n : Byte) : State := ready.setSlot 0 (Slot.occupied n)

/-- The block in the fault state after a NOTEON before SETUP (vector F1). -/
def faulted : State := State.reset.raiseFault .notInitialized

/-- V6's slots: sixteen notes 40 .. 55, ages 15 .. 0. -/
def sixteenHeld : Vector Slot 16 :=
  Vector.ofFn fun k => { st := .active, note := BitVec.ofNat 8 (40 + k.val), age := BitVec.ofNat 32 (15 - k.val) }

/-- The state after a step that gives one, the state itself otherwise. -/
def after (i : Instr) (s : State) : State :=
  match exec i s with
  | .next t => t
  | _ => s

/-! ### Decoding (R92; 95_test_vectors.md section 2): the words are the spec's -/

theorem test_decode_setup : decode [0x10000000#32] = .command .setup [] := by decide
theorem test_decode_pwrg : decode [0x20200005#32] = .command (.pwrg 2 5) [] := by decide
theorem test_decode_pwro : decode [0x3071002A#32] = .command (.pwro 7 1 0x2A) [] := by decide
theorem test_decode_encframe : decode [0x40000000#32] = .command .encframe [] := by decide
theorem test_decode_sendframe : decode [0x50000000#32] = .command .sendframe [] := by decide
theorem test_decode_noteon : decode [0x60003C64#32] = .command (.noteon 60 100) [] := by decide
theorem test_decode_noteoff : decode [0x70003C00#32] = .command (.noteoff 60) [] := by decide
theorem test_decode_noteev : decode [0x83146564#32] = .command (.noteev 3 0x14 0x65 100) [] := by decide
theorem test_decode_coefenc :
    decode [0x90000000#32, 0xBFF80000#32, 0x00000001#32] = .command (.coefenc 0xBFF8000000000001) [] := by decide
/-- P4's EQWR, a word of the next command after it. -/
theorem test_decode_eqwr :
    decode [0xA0000001#32, 0x3F700A4D#32, 0xD48FD731#32, 0x3F800A4D#32, 0xD48FD731#32, 0x3F700A4D#32, 0xD48FD731#32,
      0xBFFD0B8A#32, 0xCC7A9E43#32, 0x3FEA9768#32, 0x0799BB40#32, 0x10000000#32] =
    .command (.eqwr 1 0x3F700A4DD48FD731 0x3F800A4DD48FD731 0x3F700A4DD48FD731 0xBFFD0B8ACC7A9E43 0x3FEA97680799BB40)
      [0x10000000#32] := by decide

/-- The illegal words of the vectors, each by its fault. -/
theorem test_decode_illegal_words :
    decode [0x00000000#32] = .illegal .reservedOpcode [] ∧ decode [0xF0000000#32] = .illegal .reservedOpcode [] ∧
    decode [0x10000001#32] = .illegal .reservedBits [] ∧ decode [0x20200105#32] = .illegal .reservedBits [] ∧
    decode [0x3077002A#32] = .illegal .reservedBits [] ∧ decode [0x60003CE4#32] = .illegal .reservedBits [] ∧
    decode [0x70003C01#32] = .illegal .reservedBits [] := by decide

/-- R87: the operand words of a faulting COEFENC are consumed with it. -/
theorem test_decode_reserved_bits_consumes_operands :
    decode [0x90000001#32, 1#32, 2#32, 0x10000000#32] = .illegal .reservedBits [0x10000000#32] := by decide

/-- A command whose operand words have not all come is no command yet. -/
theorem test_decode_incomplete : decode [0x90000000#32, 0x3FF00000#32] = .incomplete := by decide

/-- The opcode table's numbering: PWRO as one word, COEFENC with its operand words above the table's bits. -/
theorem test_decode_table_word :
    decodeTableWord 32 0x3071002A = some (.pwro 7 1 0x2A) ∧ decodeTableWord 32 0x90000000 = some (.coefenc 0) ∧
    decodeTableWord 96 0x00000002_00000001_90000000 = some (.coefenc 0x0000000100000002) ∧
    decodeTableWord 32 0xB0000000 = none := by decide

/-- The step after `withFetchWord` runs that command. -/
theorem test_fetch_word_is_next :
    (State.reset.withFetchWord 32 0x20200005).nextCommand = .command (.pwrg 2 5) [] := by decide

/-! ### WellFormed: every check refuses its ill-formed term -/

/-- A configuration with one general and one operator descriptor, to be spoilt below. -/
def small (g o : Descriptor) : Config :=
  { Config.tcfg with dg := [g], dop := [o], paramInitG := [0], paramInitO := Vector.replicate 4 [0] }

/-- A descriptor of byte 0, bits 1:0. -/
def lowBits : Descriptor := Config.tcfgRow "BO" 0 2 0 0xFC

/-- A descriptor of byte 2, bits 7:4. -/
def highBits : Descriptor := Config.tcfgRow "SR" 2 4 4 0x0F

theorem test_tcfg_admitted : Config.tcfg.wellFormed = true := by decide
theorem test_small_admitted : (small lowBits highBits).wellFormed = true := by decide

theorem test_w1_refused :
    (small { lowBits with bitWidth := 0, preserveMask := 0xFF } highBits).wellFormed = false ∧
    (small lowBits { highBits with bitShift := 5, preserveMask := 0x1F }).wellFormed = false := by decide

theorem test_w2_refused :
    (small { lowBits with byteOffset := 30 } highBits).wellFormed = false ∧
    (small lowBits { highBits with byteOffset := 9 }).wellFormed = false := by decide

theorem test_w3_refused : (small { lowBits with preserveMask := 0xFD } highBits).wellFormed = false := by decide

/-- The operator field at byte 2 + 7 meets a general field there. -/
theorem test_w4_refused :
    (small { lowBits with byteOffset := 9, bitShift := 3, preserveMask := 0xE7 } highBits).wellFormed = false := by decide

theorem test_w5_refused :
    (small { lowBits with domain := .count 5 } highBits).wellFormed = false ∧
    (small { lowBits with domain := .count 0 } highBits).wellFormed = false ∧
    (small { lowBits with domain := .range 0 4 } highBits).wellFormed = false ∧
    (small { lowBits with domain := .range 2 1 } highBits).wellFormed = false := by decide

theorem test_w6_refused :
    ({ small lowBits highBits with dg := [lowBits, Config.tcfgRow "BO" 1 2 0 0xFC], paramInitG := [0, 0] } :
      Config).wellFormed = false := by decide

/-- PARAM_INIT without a value for each parameter (log entry 1). -/
theorem test_param_init_refused :
    ({ small lowBits highBits with paramInitG := [] } : Config).wellFormed = false ∧
    ({ small lowBits highBits with paramInitO := Vector.replicate 4 [] } : Config).wellFormed = false := by decide

/-- R223: 257 descriptors are too many. -/
theorem test_long_list_refused :
    ({ Config.tcfg with dg := List.replicate 257 lowBits } : Config).wellFormed = false := by
  simp [Config.wellFormed, configAdmitted, descriptorsAdmitted, Config.maxDescriptors]

/-- R88, NG = 3 and NO = 17: the last legal operand and the first illegal one. -/
theorem test_legal_operands :
    (Instr.pwrg 2 0xFF).legal Config.tcfg = true ∧ (Instr.pwrg 3 0).legal Config.tcfg = false ∧
    (Instr.pwro 16 3 0xFF).legal Config.tcfg = true ∧ (Instr.pwro 17 0 0).legal Config.tcfg = false ∧
    (Instr.eqwr 2 0 0 0 0 0).legal Config.tcfg = true ∧ (Instr.eqwr 3 0 0 0 0 0).legal Config.tcfg = false := by decide

/-! ### One-step tests: expected values from 95_test_vectors.md -/

/-- R132's example. -/
theorem test_setup : (after .setup State.reset).hist = [.resetPulse, .delay 1, .write 0x1D 0x00] ∧
    (after .setup State.reset).status.word = 0x00000001 := by decide

/-- R104's example; a value outside its domain is stored unchanged (U13). -/
theorem test_pwrg : (after (.pwrg 2 0x0D) State.reset).pvG = [0, 0, 0x0D] := by decide

/-- 0x20300005 with NG = 3: DESC_RANGE. -/
theorem test_pwrg_range : after (.pwrg 3 5) State.reset = State.reset.raiseFault .descRange := rfl

/-- R105's example: operator 1 only. -/
theorem test_pwro : (after (.pwro 7 1 0x2A) State.reset).paramO 1 7 = 0x2A ∧
    (after (.pwro 7 1 0x2A) State.reset).paramO 0 7 = 0 := by decide

theorem test_pwro_range : after (.pwro 17 0 0) State.reset = State.reset.raiseFault .descRange := rfl

/-- Section 3: the general fields, an operator field at its stride, two fields in one byte. -/
theorem test_encframe :
    let s := ((({ State.reset with pvG := [1, 2, 5] } : State).setParamO 3 7 0x3F).setParamO 1 15 7).setParamO 1 16 3
    (after .encframe s).fb =
      #v[0x01, 0x85, 0, 0, 0, 0, 0, 0, 0, 0, 0, 0, 0, 0, 0, 0x3B, 0, 0, 0, 0, 0, 0, 0, 0, 0, 0, 0xFC, 0, 0, 0] := by decide

/-- P1's group, with a frame of zeros: the toggle writes around one burst, HDR first and TRL last. -/
theorem test_sendframe : (after .sendframe ready).hist =
    [ .write 0x08 0xF6, .burst ([0x07, 0x90] ++ List.replicate 480 0x00 ++ [0x80, 0x03, 0x81, 0x80]),
      .write 0x08 0x00 ] := by decide

/-- R110: nothing happens before SETUP but the fault. -/
theorem test_sendframe_before_setup :
    after .sendframe State.reset = State.reset.raiseFault .notInitialized := rfl

/-- V6: the held note of slot 0 is evicted, the others age. -/
theorem test_noteon_evicts :
    (after (.noteon 70 100) (readyWith sixteenHeld)).hist =
      [.write 0x0F 0x00, .write 0x0B 0x00, .write 0x0C 0x64, .write 0x0D 0x05, .write 0x0E 0x0A, .write 0x0F 0x40] ∧
    (after (.noteon 70 100) (readyWith sixteenHeld)).slots[15] = { st := .active, note := 55, age := 1 } := by decide

/-- V2: the retrigger note-off first, then slot 1. -/
theorem test_noteon_retriggers :
    (after (.noteon 60 90) (sounding 60)).hist =
      [.write 0x0F 0x00, .write 0x0B 0x01, .write 0x0C 0x5A, .write 0x0D 0x05, .write 0x0E 0x00, .write 0x0F 0x41] ∧
    (after (.noteon 60 90) (sounding 60)).slots[0] = { st := .aging, note := 60, age := 1 } := by decide

/-- V3. -/
theorem test_noteoff : (after (.noteoff 60) (sounding 60)).hist = [.write 0x0F 0x00] ∧
    (after (.noteoff 60) (sounding 60)).slots[0] = { st := .aging, note := 60, age := 0 } := by decide

/-- V4: an Aging slot is not matched. -/
theorem test_noteoff_again : after (.noteoff 60) (after (.noteoff 60) (sounding 60)) =
    after (.noteoff 60) (sounding 60) := rfl

/-- Section 4: velocity 127 loses bit 0; velocity 0 is a note-off. -/
theorem test_noteev : (after (.noteev 15 0xFF 0x00 127) ready).hist =
      [.write 0x0B 0x0F, .write 0x0C 0x7E, .write 0x0D 0xFF, .write 0x0E 0x00, .write 0x0F 0x4F] ∧
    (after (.noteev 7 9 9 0) ready).hist = [.write 0x0F 0x07] := by decide

/-- C13 and C20: -0.1, and the carry that runs out of bit 23. -/
theorem test_coefenc :
    coeffEncode 0xBFB999999999999A = .ok (0xFE6667, true) ∧ coeffEncode 0xBEA0000000000000 = .ok (0x000000, true) ∧
    coeffEncode 0xC022800000000000 = .ok (0xEC0000, false) ∧ coeffEncode 0x0000000000000001 = .ok (0x000000, true) ∧
    coeffEncode 0xC01FFFFFFFEED1F4 = .ok (0x800001, true) := by decide

/-- P4's COEFENC in a state, and F5. -/
theorem test_coefenc_state :
    (after (.coefenc 0xBFB999999999999A) State.reset).code = 0xFE6667 ∧
    (after (.coefenc 0x7FF0000000000000) State.reset).status.word = 0x00000062 := by decide

/-- P4's EQWR. -/
theorem test_eqwr :
    let t := after
      (.eqwr 1 0x3F700A4DD48FD731 0x3F800A4DD48FD731 0x3F700A4DD48FD731 0xBFFD0B8ACC7A9E43 0x3FEA97680799BB40) ready
    t.hist = [.write 0x08 0xF6, .burst [0x21, 0x00, 0x10, 0x0A, 0x00, 0x20, 0x14, 0x00, 0x10, 0x0A, 0xE2, 0xF4, 0x76,
      0x0D, 0x4B, 0xB4], .write 0x08 0x00] ∧ t.status.word = 0x00000005 := by decide

/-- F7: EQ_UNIT_RANGE is found before NOT_INITIALIZED; F4: COEFF_NONFINITE. -/
theorem test_eqwr_faults :
    (after (.eqwr 3 0 0 0 0 0) State.reset).status.word = 0x00000042 ∧
    (after (.eqwr 0 0x3FF0000000000000 0x7FF8000000000000 0 0 0) ready).status.word = 0x00000063 := by decide

/-- F2: a faulted block ignores SETUP. -/
theorem test_faulted_ignores : after .setup faulted = faulted ∧ faulted.status.word = 0x00000052 := ⟨rfl, by decide⟩

/-- F6, as a step. -/
theorem test_step_reserved_opcode :
    step { State.reset with port := [0xB0000000#32] } = .next (State.reset.raiseFault .reservedOpcode) := by
  simp only [step, show State.reset.cfg.wellFormed = true from test_tcfg_admitted]
  rfl

/-- F8: reset leaves the fault state. -/
theorem test_step_reset : step { faulted with resetLine := true } = .next State.reset := by
  simp only [step, show faulted.cfg.wellFormed = true from test_tcfg_admitted]
  rfl

/-- The readout of a slot (R36): NOTE 60 and Active; an unmapped address reads 0. -/
theorem test_readout : (sounding 60).readout 0x0200 = 0x00003C01 ∧ ready.readout 0x0000 = 1 ∧
    ready.readout 0x0303 = 0 := by decide

/-! ### The assembler (R90 to R92) -/

theorem test_assemble_names :
    assemble Config.tcfg ["SETUP ; start", "", "PWRG ALG, 5", "PWRO TL, 1, 0x2A"] =
      some [0x10000000#32, 0x20200005#32, 0x3071002A#32] := by decide

/-- R92's `EQWR 1, 1.0, 0, 0, 0, 0`, a C99 literal, a raw pattern, and refusals. -/
theorem test_assemble_binary64 :
    assembleLine Config.tcfg "EQWR 1, 1.0, 0, 0, 0, 0" = .command (.eqwr 1 0x3FF0000000000000 0 0 0 0) ∧
    assembleLine Config.tcfg "COEFENC -0x1.8p+0" = .command (.coefenc 0xBFF8000000000000) ∧
    assembleLine Config.tcfg "COEFENC 0X1P-1" = .command (.coefenc 0x3FE0000000000000) ∧
    assembleLine Config.tcfg "COEFENC 0x1p-1f" = .refused ∧
    assembleLine Config.tcfg "COEFENC dbl:0x1" = .command (.coefenc 0x0000000000000001) ∧
    assembleLine Config.tcfg "COEFENC dbl:0x10000000000000000" = .refused ∧
    assembleLine Config.tcfg "COEFENC dbl:0x3FF8000000000000" = .command (.coefenc 0x3FF8000000000000) ∧
    assembleLine Config.tcfg "COEFENC 0.1" = .command (.coefenc 0x3FB999999999999A) ∧
    assembleLine Config.tcfg "PWRG 3, 0" = .refused ∧ assembleLine Config.tcfg "PWRG XYZ, 0" = .refused ∧
    assembleLine Config.tcfg "NOTEON 60, 128" = .refused := by decide

/-! ### The hypotheses of each statement are met

One theorem per statement of Certificates/Slice0/Obligations.lean that has hypotheses, at boundary values where a clause
has a range. -/

/-- TCFG is an admitted configuration, and it is that of every state used here. -/
theorem witness_admitted : State.reset.cfg.wellFormed = true := test_tcfg_admitted

theorem witness_EncodeUndoesDecode : decode [0x3FF300FF#32, 7#32] = .command (.pwro 0xFF 3 0xFF) [7#32] := by decide

theorem witness_MatchAndMaskSelectTheMnemonic :
    operandWords .coefenc ≤ [1#32, 2#32].length ∧ opcodeField 0x9FFFFFFF = opcodeValue .coefenc ∧
    (0x9FFFFFFF#32 &&& Opcode.maskWord .coefenc) ≠ Opcode.matchWord .coefenc := by decide

theorem witness_StepRunsTheDecodedCommand :
    let s : State := { State.reset with port := [0x10000000#32, 5#32] }
    s.cfg.wellFormed = true ∧ s.resetLine = false ∧ decode s.port = .command .setup [5#32] :=
  ⟨witness_admitted, by decide, by decide⟩

/-- Nothing presented; all but the last operand word of an EQWR presented. -/
theorem witness_StepWaitsForAWholeCommand :
    State.reset.cfg.wellFormed = true ∧ State.reset.resetLine = false ∧ State.reset.port = [] ∧
    let s : State := { State.reset with port := 0xA0000000#32 :: List.replicate 9 0#32 }
    s.cfg.wellFormed = true ∧ s.resetLine = false ∧
      ∃ w after, s.port = w :: after ∧ s.port.length < commandLength w :=
  ⟨witness_admitted, by decide, by decide, witness_admitted, by decide, _, _, rfl, by decide⟩

/-- OPC 0x0, 0xB and 0xF. -/
theorem witness_ReservedOpcodeFaults :
    State.reset.cfg.wellFormed = true ∧ State.reset.resetLine = false ∧ State.reset.status.fault = false ∧
    ∀ w ∈ [0x00000000#32, 0x0FFFFFFF#32, 0xB0000000#32, 0xFFFFFFFF#32],
      opcodeField w = 0x0 ∨ 0xB ≤ (opcodeField w).toNat :=
  ⟨witness_admitted, by decide, by decide, by intro w hw; fin_cases hw <;> decide⟩

/-- Each format with its lowest and its highest reserved bit set alone. -/
theorem witness_ReservedBitsFault :
    State.reset.cfg.wellFormed = true ∧ State.reset.resetLine = false ∧ State.reset.status.fault = false ∧
    ∀ p ∈ [ (Opcode.setup, 0x10000001#32), (.setup, 0x18000000#32), (.pwrg, 0x20000100#32), (.pwrg, 0x20080000#32),
        (.pwro, 0x30040000#32), (.pwro, 0x30080000#32), (.pwro, 0x30000100#32), (.pwro, 0x30008000#32),
        (.encframe, 0x40000001#32), (.sendframe, 0x58000000#32), (.noteon, 0x60000080#32), (.noteon, 0x68000000#32),
        (.noteon, 0x60010000#32), (.noteoff, 0x70000001#32), (.noteoff, 0x70000080#32), (.noteoff, 0x78000000#32),
        (.noteev, 0x80000080#32), (.coefenc, 0x90000001#32), (.coefenc, 0x98000000#32), (.eqwr, 0xA0000004#32),
        (.eqwr, 0xA8000000#32) ],
      operandWords p.1 ≤ (List.replicate 10 0#32).length ∧ opcodeField p.2 = opcodeValue p.1 ∧
      (match p.1 with
        | .setup | .encframe | .sendframe | .coefenc => p.2.extractLsb' 0 28 ≠ 0
        | .pwrg => p.2.extractLsb' 8 12 ≠ 0
        | .pwro => p.2.extractLsb' 18 2 ≠ 0 ∨ p.2.extractLsb' 8 8 ≠ 0
        | .noteon => p.2.extractLsb' 16 12 ≠ 0 ∨ p.2.getLsbD 7 = true
        | .noteoff => p.2.extractLsb' 16 12 ≠ 0 ∨ p.2.extractLsb' 0 8 ≠ 0
        | .noteev => p.2.getLsbD 7 = true
        | .eqwr => p.2.extractLsb' 2 26 ≠ 0) :=
  ⟨witness_admitted, by decide, by decide, by
    intro p hp
    fin_cases hp <;> refine ⟨by decide, by decide, ?_⟩ <;> dsimp only <;> decide⟩

theorem witness_UnadmittedConfigurationsAreRefused :
    descriptorsAdmitted (small { lowBits with byteOffset := 30 } highBits) = false ∧
    ({ small lowBits highBits with paramInitG := [] } : Config).paramInitG.length ≠ [lowBits].length ∧
    ∃ k : Fin 4, ({ small lowBits highBits with paramInitO := Vector.replicate 4 [] } : Config).paramInitO[k].length ≠
      [highBits].length := by decide

theorem witness_ResetRestoresTheResetState :
    let s : State := { faulted with resetLine := true }
    s.cfg.wellFormed = true ∧ s.resetLine = true := ⟨witness_admitted, by decide⟩

theorem witness_ResetStateIsSound : Config.tcfg.wellFormed = true := test_tcfg_admitted

/-- The state after reset is sound, and so is the one with SETUP presented; that one steps. -/
theorem witness_EveryStepKeepsTheStateSound :
    State.reset.Inv ∧ ({ State.reset with port := [0x10000000#32] } : State).Inv ∧
    ∃ t, step { State.reset with port := [0x10000000#32] } = .next t := by
  have inv : ∀ ws, ({ State.reset with port := ws } : State).Inv := fun ws =>
    { admitted := witness_admitted
      generalSize := rfl
      operatorSize := show ∀ k : Fin 4, State.reset.pvO[k].length = State.reset.cfg.dop.length by decide
      ageNonneg := show ∀ k : SlotIx, 0 ≤ State.reset.slots[k].age.toInt by decide
      oneActivePerNote := fun j _ hj =>
        absurd hj ((show ∀ k : SlotIx, State.reset.slots[k].st ≠ .active by decide) j)
      freeIsBlank := show ∀ k : SlotIx, State.reset.slots[k].st = .free → State.reset.slots[k] = Slot.blank by decide
      noFaultCode := fun _ => rfl
      faultCode := fun h => Bool.noConfusion h
      emittedAfterSetup := fun h => absurd rfl h
      grouped := .nil }
  refine ⟨inv [], inv _, ?_⟩
  simp only [step, witness_admitted]
  exact ⟨_, rfl⟩

theorem witness_SoundStatesAlwaysStep : State.reset.Inv := witness_EveryStepKeepsTheStateSound.1

/-- Each clause: the first illegal index and unit, a command that needs SETUP, a non-finite operand, none of these. -/
theorem witness_FaultsComeInTheStatedOrder :
    State.reset.status.fault = false ∧ ready.status.fault = false ∧
    (Instr.pwrg 3 0).legal State.reset.cfg = false ∧ (Instr.pwro 17 0 0).legal State.reset.cfg = false ∧
    (Instr.eqwr 3 0 0 0 0 0).legal State.reset.cfg = false ∧
    ((Instr.noteoff 60).legal State.reset.cfg = true ∧ (Instr.noteoff 60).needsSetup = true ∧
      State.reset.status.initDone = false) ∧
    ((Instr.eqwr 2 0 0 0 0 0x7FF0000000000000).legal ready.cfg = true ∧
      ((Instr.eqwr 2 0 0 0 0 0x7FF0000000000000).needsSetup = true → ready.status.initDone = true) ∧
      ∃ x ∈ (Instr.eqwr 2 0 0 0 0 0x7FF0000000000000).binary64Operands, x.extractLsb' 52 11 = 0x7FF) ∧
    ((Instr.coefenc 0x7FEFFFFFFFFFFFFF).legal State.reset.cfg = true ∧
      ((Instr.coefenc 0x7FEFFFFFFFFFFFFF).needsSetup = true → State.reset.status.initDone = true) ∧
      ¬ ∃ x ∈ (Instr.coefenc 0x7FEFFFFFFFFFFFFF).binary64Operands, x.extractLsb' 52 11 = 0x7FF) := by
  refine ⟨by decide, by decide, by decide, by decide, by decide, by decide, ⟨by decide, by decide, ?_⟩,
    by decide, by decide, ?_⟩
  · exact ⟨0x7FF0000000000000, by decide, by decide⟩
  · rintro ⟨x, hx, h⟩
    fin_cases hx
    revert h
    decide

/-- An index, a unit, and a command without a fault. -/
theorem witness_OnlyIllegalFieldsRaiseRangeFaults :
    State.reset.status.fault = false ∧ State.reset.status.fcode = 0 ∧
    (∃ t, exec (.pwrg 3 0) State.reset = .next t ∧ t.status.fcode = 3) ∧
    (∃ t, exec (.eqwr 3 0 0 0 0 0) State.reset = .next t ∧ t.status.fcode = 4) ∧
    ∃ t, exec (.pwrg 2 0) State.reset = .next t ∧ t.status.fcode = 0 :=
  ⟨by decide, by decide, ⟨_, rfl, by decide⟩, ⟨_, rfl, by decide⟩, ⟨_, rfl, by decide⟩⟩

theorem witness_FaultsArePrecise :
    State.reset.status.fault = false ∧ exec (.noteon 60 100) State.reset = .next faulted ∧
    faulted.status.fault = true ∧
    step { State.reset with port := [0xB0000000#32] } = .next (State.reset.raiseFault .reservedOpcode) ∧
    (State.reset.raiseFault .reservedOpcode).status.fault = true :=
  ⟨by decide, rfl, by decide, test_step_reserved_opcode, by decide⟩

theorem witness_FaultStateConsumesAndIgnores :
    let s : State := { faulted with port := 0xA0000003#32 :: List.replicate 10 0#32 }
    s.status.fault = true ∧ s.cfg.wellFormed = true ∧ s.resetLine = false ∧
      s.port = 0xA0000003#32 :: List.replicate 10 0#32 ∧ commandLength 0xA0000003#32 ≤ s.port.length :=
  ⟨by decide, witness_admitted, by decide, rfl, by decide⟩

/-- Both ends: a command ignored, and a reset taken. -/
theorem witness_OnlyResetLeavesTheFaultState :
    faulted.status.fault = true ∧ (∃ t, step { faulted with port := [0x10000000#32] } = .next t) ∧
    step { faulted with resetLine := true } = .next State.reset := by
  refine ⟨by decide, ?_, test_step_reset⟩
  simp only [step, show faulted.cfg.wellFormed = true from witness_admitted]
  exact ⟨_, rfl⟩

theorem witness_EachElementIsWrittenOnlyByItsCommands :
    (∃ t, exec .sendframe ready = .next t) ∧ Instr.opcode .sendframe ≠ .pwrg ∧ Instr.opcode .sendframe ≠ .pwro ∧
    Instr.opcode .sendframe ≠ .noteon ∧ Instr.opcode .sendframe ≠ .noteoff ∧ Instr.opcode .sendframe ≠ .coefenc ∧
    Instr.opcode .sendframe ≠ .setup ∧ Instr.opcode .sendframe ≠ .eqwr ∧
    (∃ t, exec (.pwrg 0 1) ready = .next t) ∧ Instr.opcode (.pwrg 0 1) ≠ .encframe ∧
    Instr.opcode (.pwrg 0 1) ≠ .sendframe ∧ Instr.needsSetup (.pwrg 0 1) = false ∧
    (∃ t, exec (.noteon 60 0) ready = .next t) ∧ ∀ note vel, Instr.noteon 60 0 = .noteon note vel → vel = 0#7 :=
  ⟨⟨_, rfl⟩, by decide, by decide, by decide, by decide, by decide, by decide, by decide, ⟨_, rfl⟩, by decide, by decide,
    by decide, ⟨_, rfl⟩, fun _ _ h => (Instr.noteon.inj h).2.symm⟩

theorem witness_HistoryIsAppendOnly :
    (∃ t, exec (.noteev 7 9 9 0) ready = .next t) ∧ step { faulted with resetLine := true } = .next State.reset :=
  ⟨⟨_, rfl⟩, test_step_reset⟩

theorem witness_ConfigurationNeverChanges : step { faulted with resetLine := true } = .next State.reset :=
  test_step_reset

/-- A reset of a block that had been set up. -/
theorem witness_InitDoneIsSetBySetupAndClearedByReset :
    (∃ t, exec .setup State.reset = .next t) ∧
    step { ready with resetLine := true } = .next State.reset ∧
    ({ ready with resetLine := true } : State).status.initDone = true ∧ State.reset.status.initDone = false := by
  refine ⟨⟨_, rfl⟩, ?_, by decide, by decide⟩
  simp only [step, show ready.cfg.wellFormed = true from witness_admitted]
  rfl

theorem witness_ResultRegistersAreNeverRead : ∃ t, exec (.noteon 60 100) ready = .next t := ⟨_, rfl⟩

/-- The last general parameter. -/
theorem witness_PwrgWritesOneGeneralParameter :
    State.reset.status.fault = false ∧ (2 : Byte).toNat < State.reset.cfg.dg.length ∧
    State.reset.pvG.length = State.reset.cfg.dg.length ∧ 0 ≠ (2 : Byte).toNat := by decide

/-- The last operator parameter; another operator and another descriptor. -/
theorem witness_PwroWritesOneOperatorParameter :
    State.reset.status.fault = false ∧ (16 : Byte).toNat < State.reset.cfg.dop.length ∧
    (∀ k : Fin 4, State.reset.pvO[k].length = State.reset.cfg.dop.length) ∧
    ((0 : Fin 4).val ≠ (3 : BitVec 2).toNat ∨ 15 ≠ (16 : Byte).toNat) := by decide

/-- For EncframeStoresTheEncodedFrame, SetupEmitsTheProgramAndSetsInitDone and CoefencStoresTheCode: before SETUP too. -/
theorem witness_commands_without_setup :
    State.reset.status.fault = false ∧ State.reset.status.initDone = false ∧ ready.status.fault = false ∧
    (0x7FEFFFFFFFFFFFFF#64).extractLsb' 52 11 ≠ 0x7FF ∧ (0xFFF0000000000000#64).extractLsb' 52 11 = 0x7FF := by decide

/-- For SendframeEmitsOneBurstGroup and NoteevEmitsItsWritesInOrder. -/
theorem witness_commands_after_setup : ready.status.fault = false ∧ ready.status.initDone = true := by decide

/-- For FrameByteIsTheOrOfItsFields and EncodedFieldsDecodeToTheirValues: TCFG, a byte of the frame, the orders of the
placements, the first and last descriptors, a value in its domain and one outside it. -/
theorem witness_FrameByteIsTheOrOfItsFields :
    Config.tcfg.wellFormed = true ∧ 29 < 30 ∧
    (placements Config.tcfg.dg Config.tcfg.dop State.reset.pvG State.reset.pvO).reverse.Perm
      (placements Config.tcfg.dg Config.tcfg.dop State.reset.pvG State.reset.pvO) :=
  ⟨test_tcfg_admitted, by decide, List.reverse_perm _⟩

theorem witness_EncodedFieldsDecodeToTheirValues :
    Config.tcfg.wellFormed = true ∧ 2 < Config.tcfg.dg.length ∧ 16 < Config.tcfg.dop.length ∧
    inDomain Config.tcfg.dg[2] ([1, 2, 7].getD 2 0) = true ∧ inDomain Config.tcfg.dg[2] 8 = false ∧
    inDomain Config.tcfg.dop[16] 7 = true := ⟨test_tcfg_admitted, by decide⟩

theorem witness_VoicePayloadLayout : 15 < 16 ∧ 29 < 30 ∧ 1 < 2 ∧ 3 < 4 := by decide

/-- No slot sounds the note; the last slot is the only one that does; the first of two notes. -/
theorem witness_NoteoffReleasesTheLowestSoundingSlot :
    ready.status.fault = false ∧ ready.status.initDone = true ∧
    (∀ k : SlotIx, ¬ (ready.slots[k].st = .active ∧ ready.slots[k].note = 60)) ∧
    let s := ready.setSlot 15 (Slot.occupied 60)
    s.status.fault = false ∧ s.status.initDone = true ∧ s.slots[(15 : SlotIx)].st = .active ∧
      s.slots[(15 : SlotIx)].note = 60 ∧
      ∀ j : SlotIx, j < 15 → ¬ (s.slots[j].st = .active ∧ s.slots[j].note = 60) := by decide

/-- For NoteonAllocatesAVoice: all slots Free, and none Free. -/
theorem witness_NoteonAllocatesAVoice :
    ready.status.fault = false ∧ ready.status.initDone = true ∧ (1 : Velocity) ≠ 0#7 ∧
    (readyWith sixteenHeld).status.fault = false ∧ (readyWith sixteenHeld).status.initDone = true := by decide

/-- A full block whose eleventh note is struck again. -/
theorem witness_NoteonEmitsAtMostSevenEventsStrobeLast :
    OneActivePerNote sixteenHeld ∧ (readyWith sixteenHeld).status.fault = false ∧
    (readyWith sixteenHeld).status.initDone = true ∧ (127 : Velocity) ≠ 0#7 ∧
    ∃ t, exec (.noteon 50 127) (readyWith sixteenHeld) = .next t := by
  refine ⟨?_, by decide, by decide, by decide, ⟨_, rfl⟩⟩
  unfold OneActivePerNote
  decide

theorem witness_SlotsMoveOnlyAlongTheLifecycle : ∃ t, exec (.noteon 70 100) (readyWith sixteenHeld) = .next t := ⟨_, rfl⟩

/-- Program P3's notes 40 .. 55 and 70. -/
theorem witness_SixteenNotesFillTheSlotsAndTheNextEvictsSlotZero :
    let notes := (List.range 16).map fun k => BitVec.ofNat 8 (40 + k)
    let vels := List.replicate 16 (100 : Velocity)
    ready.status.fault = false ∧ ready.status.initDone = true ∧ ready.cfg.ageAllOnAlloc = true ∧
    ready.slots = Vector.replicate 16 Slot.blank ∧ notes.length = 16 ∧ vels.length = 16 ∧ (∀ v ∈ vels, v ≠ 0) ∧
    notes.Nodup ∧ (70 : Byte) ∉ notes ∧ (100 : Velocity) ≠ 0#7 := by decide

theorem witness_StrikingANoteTwiceSilencesItOnce :
    ready.status.fault = false ∧ ready.status.initDone = true ∧ ready.slots = Vector.replicate 16 Slot.blank ∧
    (1 : Velocity) ≠ 0 ∧ (127 : Velocity) ≠ 0 := by decide

/-- 2^31 - 1, one below it, and 0. -/
theorem witness_AgesSaturateInsteadOfWrapping :
    (0x7FFFFFFF : Age).toInt = 2 ^ 31 - 1 ∧ (0x7FFFFFFE : Age).toInt ≠ 2 ^ 31 - 1 ∧
    (0 : Age).toInt ≠ 2 ^ 31 - 1 := by decide

/-- The greatest finite operands, the smallest one, and -1.0. -/
theorem witness_CodeHasTheClosedForm :
    b64NonFinite 0x7FEFFFFFFFFFFFFF = false ∧ b64NonFinite 0xFFEFFFFFFFFFFFFF = false ∧
    b64NonFinite 0x0000000000000001 = false ∧ b64NonFinite 0xBFF0000000000000 = false := by decide

/-- For CodeHasTheClosedForm's clauses and CodeRoundTripsWithinOneStep: -1.0, below 0 and of magnitude below 8; 8.0, the
least magnitude that is not below 8. -/
theorem witness_CodeRoundTripsWithinOneStep :
    (coeffEncode 0xBFF0000000000000 = .ok (0xF00000, false) ∧ b64Value 0xBFF0000000000000 < 0 ∧
      |b64Value 0xBFF0000000000000| < 8) ∧
    coeffEncode 0x4020000000000000 = .ok (0x000000, false) ∧ 8 ≤ |b64Value 0x4020000000000000| := by
  have value : ∀ (x : Binary64) (n : Nat), b64Magnitude x = n * (1 <<< 1074) →
      b64Value x = (if b64SignBit x then -1 else 1) * n := by
    intro x n h
    rw [b64Value, h, Nat.one_shiftLeft]
    push_cast
    rw [mul_div_assoc, div_self (by positivity), mul_one]
  have h1 : b64Value 0xBFF0000000000000 = -1 := by
    rw [value _ 1 (by decide), if_pos (by decide)]
    norm_num
  have h8 : b64Value 0x4020000000000000 = 8 := by
    rw [value _ 8 (by decide), if_neg (by decide)]
    norm_num
  refine ⟨⟨by decide, ?_, ?_⟩, by decide, ?_⟩ <;> first | rw [h1] | rw [h8]
  all_goals norm_num

theorem witness_EqwrEmitsOneEqualizerBurst :
    ready.status.fault = false ∧ ready.status.initDone = true ∧ (2 : BitVec 2).toNat < 3 ∧
    ∀ x ∈ [0x3FF0000000000000#64, 0x8000000000000000#64, 0x7FEFFFFFFFFFFFFF#64, 0x0000000000000001#64, 0#64],
      x.extractLsb' 52 11 ≠ 0x7FF :=
  ⟨by decide, by decide, by decide, by intro x hx; fin_cases hx <;> decide⟩

/-- TCFG's lists, and an address of no row: the one after the last general parameter. -/
theorem witness_ReadoutMap :
    State.reset.cfg.dg.length ≤ 256 ∧ State.reset.cfg.dop.length ≤ 256 ∧ 2 < State.reset.cfg.dg.length ∧
    16 < State.reset.cfg.dop.length ∧
    let ra := 0x0303#16
    ra ≠ 0x0000 ∧ ra ≠ 0x0001 ∧ ra ≠ 0x0002 ∧ (∀ n, n < 30 → ra.toNat ≠ 0x0100 + n) ∧
      (∀ k : SlotIx, ra.toNat ≠ 0x0200 + 2 * k.val) ∧ (∀ k : SlotIx, ra.toNat ≠ 0x0201 + 2 * k.val) ∧
      (∀ i, i < State.reset.cfg.dg.length → ra.toNat ≠ 0x0300 + i) ∧
      ∀ (k : Fin 4) j, j < State.reset.cfg.dop.length → ra.toNat ≠ 0x0400 + 0x100 * k.val + j := by decide

/-- Both burst shapes. -/
theorem witness_BusEventsCarryTheirBytes :
    BurstPayload Config.tcfg (voicePayload Config.tcfg (Vector.replicate 30 0)) ∧
    BurstPayload Config.tcfg (eqFrame 2 0 0 0 0 0) :=
  ⟨.inl ⟨_, rfl⟩, .inr ⟨2, by decide, 0, 0, 0, 0, 0, rfl⟩⟩

/-- 0.5 as five tenths, and the text -0x1p-1. -/
theorem witness_RepresentableLiteralsAreExact :
    (b64NonFinite 0x3FE0000000000000 = false ∧ 5 * 2 ^ 1074 = b64Magnitude 0x3FE0000000000000 * 10 ∧ 0 < 10 ∧
      parseSign ['0', '.', '5'] = (b64SignBit 0x3FE0000000000000, ['0', '.', '5']) ∧
      parseLiteral ['0', '.', '5'] = some (5, 10)) ∧
    b64NonFinite 0xBFE0000000000000 = false ∧ 1 * 2 ^ 1074 = b64Magnitude 0xBFE0000000000000 * 2 ∧
      parseSign ['-', '0', 'x', '1', 'p', '-', '1'] =
        (b64SignBit 0xBFE0000000000000, ['0', 'x', '1', 'p', '-', '1']) ∧
      parseLiteral ['0', 'x', '1', 'p', '-', '1'] = some (1, 2) := by
  rw [← Nat.one_shiftLeft]
  decide

/-- A command with a name and the greatest operands; for each mnemonic the first integer that is out of range. -/
theorem witness_AssembledCommandsAreLegal :
    Config.tcfg.dg.length ≤ 256 ∧ Config.tcfg.dop.length ≤ 256 ∧
    assembleLine Config.tcfg "PWRO FB, 3, 255" = .command (.pwro 16 3 255) ∧
    1 < (Instr.pwro 16 3 255).integerFields.length ∧
    lineTokens "PWRO FB, 3, 255" = some ("PWRO", [['F', 'B'], ['3'], ['2', '5', '5']]) ∧ parseInteger ['3'] = some 3 ∧
    (operandBounds Config.tcfg "PWRG")[0]? = some 3 ∧ (operandBounds Config.tcfg "PWRO")[1]? = some 4 ∧
    (operandBounds Config.tcfg "NOTEON")[1]? = some 128 ∧ (operandBounds Config.tcfg "NOTEOFF")[0]? = some 256 ∧
    (operandBounds Config.tcfg "NOTEEV")[0]? = some 16 ∧ (operandBounds Config.tcfg "EQWR")[0]? = some 3 ∧
    lineTokens "NOTEON 60, 128" = some ("NOTEON", [['6', '0'], ['1', '2', '8']]) ∧
    parseInteger ['1', '2', '8'] = some 128 := by decide

end Sys2Proof.Tests
end

section
/-! SUPPORT. The family 10_state.md: what a command and a step leave of the configuration and of the output history (R33,
R34), what the readout port answers in each block of addresses (R36), and the obligations O22, O52, O11 and O23. -/

namespace Sys2Proof.Machine

/-! ### The configuration and the output history (R33, R34) -/

/-- A note-off keeps the configuration and only appends to HIST. -/
theorem noteOffEffect_cfg_hist (n : Byte) (s : State) :
    (noteOffEffect n s).cfg = s.cfg ∧ s.hist <+: (noteOffEffect n s).hist := by
  obtain ⟨-, h⟩ | ⟨k, -, -, h⟩ := noteOffEffect_cases n s <;> simp [h]

/-- A note-on keeps the configuration and only appends to HIST. -/
theorem noteOnEffect_cfg_hist (n : Byte) (vel : Velocity) (s : State) :
    (noteOnEffect n vel s).cfg = s.cfg ∧ s.hist <+: (noteOnEffect n vel s).hist := by
  obtain ⟨sel, evict, -, h⟩ := noteOnEffect_form n vel s
  simp [h]

/-- A command's body that completes keeps the configuration and only appends to HIST. -/
theorem commandBody_cfg_hist {i : Instr} {s t : State} (h : commandBody i s = .ok t) :
    t.cfg = s.cfg ∧ s.hist <+: t.hist := by
  cases i with
  | setup => simp [setupBody_ok h]
  | pwrg idx val => obtain ⟨-, rfl⟩ := pwrgBody_ok h; simp
  | pwro idx opi val => obtain ⟨-, rfl⟩ := pwroBody_ok h; simp
  | encframe => simp [encframeBody_ok h]
  | sendframe => obtain ⟨-, rfl⟩ := sendframeBody_ok h; simp
  | noteon note vel =>
    obtain ⟨-, ⟨-, ht⟩ | ⟨-, ht⟩⟩ := noteonBody_ok h
    · exact ht ▸ noteOffEffect_cfg_hist note s
    · exact ht ▸ noteOnEffect_cfg_hist note vel s
  | noteoff note =>
    obtain ⟨-, ht⟩ := noteoffBody_ok h
    exact ht ▸ noteOffEffect_cfg_hist note s
  | noteev voice hi lo vel => obtain ⟨-, rfl⟩ := noteevBody_ok h; simp
  | coefenc x => obtain ⟨r, -, rfl⟩ := coefencBody_ok h; simp
  | eqwr unit b0 b1 b2 a1 a2 =>
    obtain ⟨-, -, r0, r1, r2, r3, r4, -, -, -, -, -, rfl⟩ := eqwrBody_ok h
    simp

/-- A command, faulting or not, keeps the configuration and only appends to HIST. -/
theorem exec_cfg_hist {i : Instr} {s t : State} (h : exec i s = .next t) : t.cfg = s.cfg ∧ s.hist <+: t.hist := by
  obtain ⟨-, rfl⟩ | ⟨-, hb⟩ | ⟨-, c, -, rfl⟩ := exec_cases h
  · simp
  · exact commandBody_cfg_hist hb
  · simp

/-- A step keeps the configuration, and it either only appends to HIST or is the reset, after which HIST is empty. -/
theorem step_cfg_hist {s t : State} (h : step s = .next t) :
    t.cfg = s.cfg ∧ (s.hist <+: t.hist ∨ (s.resetLine = true ∧ t.hist = [])) := by
  obtain ⟨-, ⟨hr, rfl⟩ | ⟨-, ⟨i, rest, -, he⟩ | ⟨why, rest, -, rfl⟩ | ⟨-, rfl⟩⟩⟩ := step_cases h
  · exact ⟨rfl, .inr ⟨hr, rfl⟩⟩
  · exact (exec_cfg_hist he).imp_right .inl
  · simp
  · simp

/-- Settles O22, from what a command and a step do to HIST. -/
theorem historyIsAppendOnly : Obligations.HistoryIsAppendOnly := by
  refine ⟨fun i s t h => ?_, fun s t h => ?_⟩
  · obtain ⟨evs, he⟩ := (exec_cfg_hist h).2
    exact ⟨evs, he.symm⟩
  · obtain ⟨-, ⟨evs, he⟩ | hreset⟩ := step_cfg_hist h
    · exact .inl ⟨evs, he.symm⟩
    · exact .inr hreset

/-- Settles O23. -/
theorem configurationNeverChanges : Obligations.ConfigurationNeverChanges :=
  fun _ _ h => (step_cfg_hist h).1

/-! ### Reset (R38) -/

/-- Settles O11, element by element from the values `State.resetWith` gives. -/
theorem resetLeavesTheStatedValues : Obligations.ResetLeavesTheStatedValues := by
  refine ⟨fun c => ⟨rfl, fun _ => rfl, fun _ _ => rfl, fun n h => ?fb, fun k => ?slot, rfl, rfl, ?status, rfl⟩,
    Config.tcfg, rfl⟩
  case fb => simp
  case slot => simp [Slot.blank]
  case status => rw [State.resetWith_status]; decide

/-! ### The readout port (R36)

One equation per block of 256 addresses, by the offset in the block. -/

section Readout
variable (s : State) {ra : BitVec 16}

/-- The scalar block: nothing stands there after STATUS, CODE and LAST_VOICE. -/
theorem State.readout_scalar_rest (hlow : 2 < ra.toNat) (h : ra.toNat < 0x0100) : s.readout ra = 0 := by
  simp (disch := omega) only [State.readout, if_neg, if_pos]

/-- The block of FB. -/
theorem State.readout_fb {n : Nat} (hn : n < 0x0100) (h : ra.toNat = 0x0100 + n) :
    s.readout ra = (s.fb[n]?.getD 0).setWidth 32 := by
  simp (disch := omega) only [State.readout, h, if_neg, if_pos, Nat.add_sub_cancel_left]

/-- The block of SLOT, two addresses to a slot. -/
theorem State.readout_slot {k : SlotIx} {b : Nat} (hb : b < 2) (h : ra.toNat = 0x0200 + 2 * k.val + b) :
    s.readout ra = if b = 0 then s.slots[k].noteWord else s.slots[k].age := by
  have hk : (0x0200 + 2 * k.val + b - 0x0200) / 2 = k.val := by omega
  have hpar : (0x0200 + 2 * k.val + b) % 2 = b := by omega
  simp (disch := omega) only [State.readout, h, if_neg, if_pos, hk, hpar,
    Vector.getElem?_eq_getElem k.isLt, Fin.getElem_fin]

/-- The block of SLOT holds nothing after the sixteenth slot. -/
theorem State.readout_slot_rest {n : Nat} (hlow : 32 ≤ n) (hn : n < 0x0100) (h : ra.toNat = 0x0200 + n) :
    s.readout ra = 0 := by
  have hnone : s.slots[n / 2]? = none := Vector.getElem?_eq_none (by omega)
  simp (disch := omega) only [State.readout, h, if_neg, if_pos, Nat.add_sub_cancel_left, hnone]

/-- The block of PV_G. -/
theorem State.readout_paramG {i : Nat} (hi : i < 0x0100) (h : ra.toNat = 0x0300 + i) :
    s.readout ra = if i < s.cfg.dg.length then (s.paramG i).setWidth 32 else 0 := by
  simp (disch := omega) only [State.readout, h, if_neg, if_pos, Nat.add_sub_cancel_left]

/-- The block of PV_O of one operator. -/
theorem State.readout_paramO {k : Fin 4} {j : Nat} (hj : j < 0x0100) (h : ra.toNat = 0x0400 + 0x0100 * k.val + j) :
    s.readout ra = if j < s.cfg.dop.length then (s.paramO k j).setWidth 32 else 0 := by
  have hk : (0x0400 + 0x0100 * k.val + j - 0x0400) / 0x0100 = k.val := by omega
  have hmod : (0x0400 + 0x0100 * k.val + j - 0x0400) % 0x0100 = j := by omega
  simp (disch := omega) only [State.readout, h, if_neg, dif_pos, hk, hmod, Fin.eta]

/-- Nothing stands after the block of the last operator. -/
theorem State.readout_beyond (h : 0x0800 ≤ ra.toNat) : s.readout ra = 0 := by
  simp (disch := omega) only [State.readout, if_neg, dif_neg]

/-- Every address is in one of the blocks above or among the first 256. -/
theorem readout_address_cases (ra : BitVec 16) :
    ra.toNat < 0x0100 ∨ (∃ n, n < 0x0100 ∧ ra.toNat = 0x0100 + n) ∨
      (∃ (k : SlotIx) (b : Nat), b < 2 ∧ ra.toNat = 0x0200 + 2 * k.val + b) ∨
      (∃ n, 32 ≤ n ∧ n < 0x0100 ∧ ra.toNat = 0x0200 + n) ∨
      (∃ i, i < 0x0100 ∧ ra.toNat = 0x0300 + i) ∨
      (∃ (k : Fin 4) (j : Nat), j < 0x0100 ∧ ra.toNat = 0x0400 + 0x0100 * k.val + j) ∨ 0x0800 ≤ ra.toNat := by
  generalize ra.toNat = a
  by_cases scalar : a < 0x0100
  · exact .inl scalar
  by_cases fb : a < 0x0200
  · exact .inr (.inl ⟨a - 0x0100, by omega, by omega⟩)
  by_cases slot : a < 0x0220
  · exact .inr (.inr (.inl ⟨⟨(a - 0x0200) / 2, by omega⟩, a % 2, by omega, by dsimp only; omega⟩))
  by_cases slotRest : a < 0x0300
  · exact .inr (.inr (.inr (.inl ⟨a - 0x0200, by omega, by omega, by omega⟩)))
  by_cases general : a < 0x0400
  · exact .inr (.inr (.inr (.inr (.inl ⟨a - 0x0300, by omega, by omega⟩))))
  by_cases operator : a < 0x0800
  · exact .inr (.inr (.inr (.inr (.inr (.inl
      ⟨⟨(a - 0x0400) / 0x0100, by omega⟩, (a - 0x0400) % 0x0100, by omega, by dsimp only; omega⟩)))))
  · exact .inr (.inr (.inr (.inr (.inr (.inr (by omega))))))

/-- An address of no row of R36's map reads 0. -/
theorem State.readout_unmapped (hstatus : ra ≠ 0x0000) (hcode : ra ≠ 0x0001) (hvoice : ra ≠ 0x0002)
    (hfb : ∀ n, n < 30 → ra.toNat ≠ 0x0100 + n) (hnote : ∀ k : SlotIx, ra.toNat ≠ 0x0200 + 2 * k.val)
    (hage : ∀ k : SlotIx, ra.toNat ≠ 0x0201 + 2 * k.val)
    (hgeneral : ∀ i, i < s.cfg.dg.length → ra.toNat ≠ 0x0300 + i)
    (hoperator : ∀ (k : Fin 4) j, j < s.cfg.dop.length → ra.toNat ≠ 0x0400 + 0x100 * k.val + j) :
    s.readout ra = 0 := by
  obtain h | ⟨n, hn, h⟩ | ⟨k, b, hb, h⟩ | ⟨n, hlow, hn, h⟩ | ⟨i, hi, h⟩ | ⟨k, j, hj, h⟩ | h :=
    readout_address_cases ra
  · exact s.readout_scalar_rest (by bv_omega) h
  · have hlen : 30 ≤ n := by have := hfb n; omega
    rw [s.readout_fb hn h, Vector.getElem?_eq_none hlen]
    rfl
  · have := hnote k
    have := hage k
    omega
  · exact s.readout_slot_rest hlow hn h
  · rw [s.readout_paramG hi h, if_neg fun hlt => hgeneral i hlt h]
  · rw [s.readout_paramO hj h, if_neg fun hlt => hoperator k j hlt h]
  · exact s.readout_beyond h

end Readout

/-- The address of a row of the map, as a number. -/
theorem toNat_readoutAddress {a : Nat} (h : a < 0x10000) : (BitVec.ofNat 16 a).toNat = a := by
  rw [BitVec.toNat_ofNat, Nat.mod_eq_of_lt h]

/-- Settles O52, row by row of R36's map; the bound of 256 descriptors keeps every list inside its block. -/
theorem readoutMap : Obligations.ReadoutMap := by
  intro s hdg hdop
  refine ⟨rfl, rfl, rfl, fun n hn => ?fb, fun k => ?note, fun k => ?age, fun i hi => ?general,
    fun k j hj => ?operator, fun ra => s.readout_unmapped⟩
  case fb =>
    rw [s.readout_fb (n := n) (by omega) (toNat_readoutAddress (by omega)), Vector.getElem?_eq_getElem hn,
      Option.getD_some]
  case note =>
    have haddr : (BitVec.ofNat 16 (0x0200 + 2 * k.val)).toNat = 0x0200 + 2 * k.val + 0 :=
      toNat_readoutAddress (by omega)
    rw [s.readout_slot (by decide) haddr, if_pos rfl]
    unfold Slot.noteWord
    cases s.slots[k].st <;> rfl
  case age =>
    have haddr : (BitVec.ofNat 16 (0x0201 + 2 * k.val)).toNat = 0x0200 + 2 * k.val + 1 := by
      rw [toNat_readoutAddress (by omega)]
      omega
    rw [s.readout_slot (by decide) haddr, if_neg (by decide)]
  case general =>
    rw [s.readout_paramG (i := i) (by omega) (toNat_readoutAddress (by omega)), if_pos hi]
  case operator =>
    rw [s.readout_paramO (k := k) (j := j) (by omega) (toNat_readoutAddress (by omega)), if_pos hj]

end Sys2Proof.Machine
end

section
/-! SUPPORT. The family 30_encoding.md: an illegal command word at the port (R86, R87), the faults a command's fields
raise (R88), the worked encodings (R92), and the obligations O7, O8, O17 and O4. -/

namespace Sys2Proof.Machine

/-! ### Illegal command words (R86, R87) -/

/-- Outside the fault state an illegal word is consumed as the decoder says and its fault is entered (R212). -/
theorem step_illegalWord {s : State} {why : IllegalWord} {rest : List Word} (hw : s.cfg.wellFormed = true)
    (hr : s.resetLine = false) (hf : s.status.fault = false) (hd : decode s.port = .illegal why rest) :
    step s = .next { s with port := rest, status := s.status.withFault (illegalWordFault why) } := by
  have hn : s.nextCommand = .illegal why rest := hd
  have hstep : step s = .next ((s.setPort rest).raiseFault (illegalWordFault why)) := by
    simp [step, hw, hr, hn]
  rw [hstep, State.raiseFault_entry (s := s.setPort rest) hf]
  rfl

/-- Settles O7: the decoder takes a reserved OPC as one word. -/
theorem reservedOpcodeFaults : Obligations.ReservedOpcodeFaults := by
  intro s w rest hw hr hf hport hopc
  have hd : decode s.port = .illegal .reservedOpcode rest :=
    hport ▸ decode_reserved rest ((opcodeOf_eq_none_iff _).mpr hopc)
  exact step_illegalWord hw hr hf hd

/-- A field that is not 0 is seen through a mask that is 1 over the whole field. -/
theorem and_ne_zero_of_extractLsb'_ne_zero {w mask : Word} {lo len : Nat}
    (hmask : mask.extractLsb' lo len = BitVec.allOnes len) (h : w.extractLsb' lo len ≠ 0) : w &&& mask ≠ 0 := by
  intro hand
  have hfield : (w &&& mask).extractLsb' lo len = w.extractLsb' lo len := by
    rw [BitVec.extractLsb'_and, hmask, BitVec.and_allOnes]
  rw [hand] at hfield
  exact h (by simpa using hfield.symm)

/-- A bit that is 1 is seen through a mask that is 1 there. -/
theorem and_ne_zero_of_getLsbD {w mask : Word} {i : Nat} (hmask : mask.getLsbD i = true) (h : w.getLsbD i = true) :
    w &&& mask ≠ 0 := by
  intro hand
  have hbit : (w &&& mask).getLsbD i = true := by rw [BitVec.getLsbD_and, h, hmask]; rfl
  rw [hand] at hbit
  simp at hbit

/-- Settles O8: in each format the mask is 1 over every reserved field, so a bit set there shows in the masked word. -/
theorem reservedBitsFault : Obligations.ReservedBitsFault := by
  intro s op w after hw hr hf hport hlen hopc hbits
  have hreserved : w &&& reservedMask op ≠ 0 := by
    cases op with
    | setup | encframe | sendframe | coefenc => exact and_ne_zero_of_extractLsb'_ne_zero (by decide) hbits
    | pwrg => exact and_ne_zero_of_extractLsb'_ne_zero (by decide) hbits
    | pwro =>
      obtain h | h := hbits
      · exact and_ne_zero_of_extractLsb'_ne_zero (by decide) h
      · exact and_ne_zero_of_extractLsb'_ne_zero (by decide) h
    | noteon =>
      obtain h | h := hbits
      · exact and_ne_zero_of_extractLsb'_ne_zero (by decide) h
      · exact and_ne_zero_of_getLsbD (by decide) h
    | noteoff =>
      obtain h | h := hbits
      · exact and_ne_zero_of_extractLsb'_ne_zero (by decide) h
      · exact and_ne_zero_of_extractLsb'_ne_zero (by decide) h
    | noteev => exact and_ne_zero_of_getLsbD (by decide) hbits
    | eqwr => exact and_ne_zero_of_extractLsb'_ne_zero (by decide) hbits
  have hd : decode s.port = .illegal .reservedBits (after.drop (operandWords op)) :=
    hport ▸ decode_reservedBits ((opcodeOf_eq_some_iff _ op).mpr hopc) hlen hreserved
  rw [step_illegalWord hw hr hf hd]
  cases op <;> rfl

/-! ### The faults a command can raise (R88, R210)

The counterpart, for a body that raises a fault, of what Laws/Exec says of a body that completes. -/

theorem pwrgBody_error {idx val : Byte} {s : State} {c : FaultCode} :
    pwrgBody idx val s = .error c ↔ s.cfg.dg.length ≤ idx.toNat ∧ c = .descRange := by
  unfold pwrgBody
  split
  next hlt => simp [Nat.not_le.mpr hlt]
  next hge => simp [Nat.not_lt.mp hge, eq_comm]

theorem pwroBody_error {idx : Byte} {opi : BitVec 2} {val : Byte} {s : State} {c : FaultCode} :
    pwroBody idx opi val s = .error c ↔ s.cfg.dop.length ≤ idx.toNat ∧ c = .descRange := by
  unfold pwroBody
  split
  next hlt => simp [Nat.not_le.mpr hlt]
  next hge => simp [Nat.not_lt.mp hge, eq_comm]

/-- The INIT_DONE gate adds one fault to those of the body behind it. -/
theorem requireInit_error_cases {body : State → Except FaultCode State} {s : State} {c : FaultCode}
    (h : requireInit body s = .error c) : c = .notInitialized ∨ body s = .error c := by
  unfold requireInit at h
  split at h
  · exact .inr h
  · cases h; exact .inl rfl

/-- A body whose only check is the INIT_DONE gate raises no other fault than the gate's. -/
theorem requireInit_total_error {f : State → State} {s : State} {c : FaultCode}
    (h : requireInit (fun s => .ok (f s)) s = .error c) : c = .notInitialized := by
  obtain hc | hb := requireInit_error_cases h
  · exact hc
  · cases hb

theorem sendframeBody_error {s : State} {c : FaultCode} (h : sendframeBody s = .error c) : c = .notInitialized :=
  requireInit_total_error h

theorem noteonBody_error {note : Byte} {vel : Velocity} {s : State} {c : FaultCode}
    (h : noteonBody note vel s = .error c) : c = .notInitialized :=
  requireInit_total_error h

theorem noteoffBody_error {note : Byte} {s : State} {c : FaultCode} (h : noteoffBody note s = .error c) :
    c = .notInitialized :=
  requireInit_total_error h

theorem noteevBody_error {v : Voice} {hi lo : Byte} {vel : Velocity} {s : State} {c : FaultCode}
    (h : noteevBody v hi lo vel s = .error c) : c = .notInitialized :=
  requireInit_total_error h

theorem coeffEncode_error {x : Binary64} {c : FaultCode} (h : coeffEncode x = .error c) : c = .coeffNonfinite := by
  unfold coeffEncode at h
  split at h <;> cases h
  rfl

/-- A conversion followed by more work raises its own fault or one of that work. -/
theorem coeffEncode_bind_error {α : Type} {x : Binary64} {f : Code × Bool → Except FaultCode α} {c : FaultCode}
    (h : coeffEncode x >>= f = .error c) : c = .coeffNonfinite ∨ ∃ r, f r = .error c := by
  cases hx : coeffEncode x with
  | error e => rw [hx] at h; cases h; exact .inl (coeffEncode_error hx)
  | ok r => rw [hx] at h; exact .inr ⟨r, h⟩

theorem coefencBody_error {x : Binary64} {s : State} {c : FaultCode} (h : coefencBody x s = .error c) :
    c = .coeffNonfinite := by
  obtain hc | ⟨_, hr⟩ := coeffEncode_bind_error h
  · exact hc
  · cases hr

theorem eqwrEffect_error {u : BitVec 2} {b0 b1 b2 a1 a2 : Binary64} {s : State} {c : FaultCode}
    (h : eqwrEffect u b0 b1 b2 a1 a2 s = .error c) : c = .coeffNonfinite := by
  obtain hc | ⟨_, h⟩ := coeffEncode_bind_error h
  · exact hc
  obtain hc | ⟨_, h⟩ := coeffEncode_bind_error h
  · exact hc
  obtain hc | ⟨_, h⟩ := coeffEncode_bind_error h
  · exact hc
  obtain hc | ⟨_, h⟩ := coeffEncode_bind_error h
  · exact hc
  obtain hc | ⟨_, h⟩ := coeffEncode_bind_error h
  · exact hc
  cases h

/-- Unit 3 is the one value of the two-bit field that is no unit. -/
theorem unit_eq_three_iff (u : BitVec 2) : u = 3 ↔ ¬ u.toNat < 3 := by
  revert u; decide

theorem eqwrBody_unit_three (b0 b1 b2 a1 a2 : Binary64) (s : State) :
    eqwrBody 3 b0 b1 b2 a1 a2 s = .error .eqUnitRange := rfl

theorem eqwrBody_error {u : BitVec 2} {b0 b1 b2 a1 a2 : Binary64} {s : State} {c : FaultCode}
    (h : eqwrBody u b0 b1 b2 a1 a2 s = .error c) :
    (u = 3 ∧ c = .eqUnitRange) ∨ c = .notInitialized ∨ c = .coeffNonfinite := by
  unfold eqwrBody at h
  split at h
  · exact .inr ((requireInit_error_cases h).imp_right eqwrEffect_error)
  · cases h; exact .inl ⟨(unit_eq_three_iff u).mpr ‹_›, rfl⟩

/-- The index of a PWRG or PWRO names no descriptor of its list (R88). -/
def indexBeyondList (c : Config) (i : Instr) : Prop :=
  (∃ idx val, i = .pwrg idx val ∧ c.dg.length ≤ idx.toNat) ∨
    ∃ idx opi val, i = .pwro idx opi val ∧ c.dop.length ≤ idx.toNat

/-- The command is an EQWR of unit 3 (R88). -/
def unitBeyondRange (i : Instr) : Prop := ∃ b0 b1 b2 a1 a2, i = .eqwr 3 b0 b1 b2 a1 a2

/-- Everything a body that raises a fault can answer: a range fault of an illegal field, or one of the two faults that
do not look at the integer fields. -/
theorem commandBody_error {i : Instr} {s : State} {c : FaultCode} (h : commandBody i s = .error c) :
    (indexBeyondList s.cfg i ∧ c = .descRange) ∨ (unitBeyondRange i ∧ c = .eqUnitRange) ∨
      c = .notInitialized ∨ c = .coeffNonfinite := by
  cases i with
  | setup => cases h
  | encframe => cases h
  | pwrg idx val => exact .inl ((pwrgBody_error.mp h).imp_left fun hidx => .inl ⟨idx, val, rfl, hidx⟩)
  | pwro idx opi val => exact .inl ((pwroBody_error.mp h).imp_left fun hidx => .inr ⟨idx, opi, val, rfl, hidx⟩)
  | sendframe => exact .inr (.inr (.inl (sendframeBody_error h)))
  | noteon note vel => exact .inr (.inr (.inl (noteonBody_error h)))
  | noteoff note => exact .inr (.inr (.inl (noteoffBody_error h)))
  | noteev voice hi lo vel => exact .inr (.inr (.inl (noteevBody_error h)))
  | coefenc x => exact .inr (.inr (.inr (coefencBody_error h)))
  | eqwr unit b0 b1 b2 a1 a2 =>
    exact .inr ((eqwrBody_error h).imp_left fun ⟨hu, hc⟩ => ⟨⟨b0, b1, b2, a1, a2, hu ▸ rfl⟩, hc⟩)

/-- DESC_RANGE is raised exactly for an index beyond its list (R88). -/
theorem commandBody_descRange_iff {i : Instr} {s : State} :
    commandBody i s = .error .descRange ↔ indexBeyondList s.cfg i := by
  constructor
  · intro h
    obtain ⟨hidx, -⟩ | ⟨-, hc⟩ | hc | hc := commandBody_error h
    · exact hidx
    all_goals cases hc
  · rintro (⟨idx, val, rfl, hidx⟩ | ⟨idx, opi, val, rfl, hidx⟩)
    · exact pwrgBody_error.mpr ⟨hidx, rfl⟩
    · exact pwroBody_error.mpr ⟨hidx, rfl⟩

/-- EQ_UNIT_RANGE is raised exactly for unit 3 (R88). -/
theorem commandBody_eqUnitRange_iff {i : Instr} {s : State} :
    commandBody i s = .error .eqUnitRange ↔ unitBeyondRange i := by
  constructor
  · intro h
    obtain ⟨-, hc⟩ | ⟨hunit, -⟩ | hc | hc := commandBody_error h
    · cases hc
    · exact hunit
    all_goals cases hc
  · rintro ⟨b0, b1, b2, a1, a2, rfl⟩
    exact eqwrBody_unit_three b0 b1 b2 a1 a2 s

/-! ### FCODE tells which fault was raised -/

theorem FaultCode.fcode_injective : Function.Injective FaultCode.fcode := by
  intro c d
  cases c <;> cases d <;> decide

theorem FaultCode.fcode_ne_zero (c : FaultCode) : c.fcode ≠ 0 := by
  cases c <;> decide

theorem noteOffEffect_fcode (n : Byte) (s : State) : (noteOffEffect n s).status.fcode = s.status.fcode := by
  obtain ⟨-, h⟩ | ⟨k, -, -, h⟩ := noteOffEffect_cases n s <;> simp [h]

theorem noteOnEffect_fcode (n : Byte) (vel : Velocity) (s : State) :
    (noteOnEffect n vel s).status.fcode = s.status.fcode := by
  obtain ⟨sel, evict, -, h⟩ := noteOnEffect_form n vel s
  simp [h]

/-- A body that completes leaves FCODE alone. -/
theorem commandBody_ok_fcode {i : Instr} {s t : State} (h : commandBody i s = .ok t) :
    t.status.fcode = s.status.fcode := by
  cases i with
  | setup => simp [setupBody_ok h]
  | pwrg idx val => obtain ⟨-, rfl⟩ := pwrgBody_ok h; rfl
  | pwro idx opi val => obtain ⟨-, rfl⟩ := pwroBody_ok h; rfl
  | encframe => simp [encframeBody_ok h]
  | sendframe => obtain ⟨-, rfl⟩ := sendframeBody_ok h; rfl
  | noteon note vel =>
    obtain ⟨-, ⟨-, ht⟩ | ⟨-, ht⟩⟩ := noteonBody_ok h
    · exact ht ▸ noteOffEffect_fcode note s
    · exact ht ▸ noteOnEffect_fcode note vel s
  | noteoff note =>
    obtain ⟨-, ht⟩ := noteoffBody_ok h
    exact ht ▸ noteOffEffect_fcode note s
  | noteev voice hi lo vel => obtain ⟨-, rfl⟩ := noteevBody_ok h; rfl
  | coefenc x => obtain ⟨r, -, rfl⟩ := coefencBody_ok h; rfl
  | eqwr unit b0 b1 b2 a1 a2 =>
    obtain ⟨-, -, r0, r1, r2, r3, r4, -, -, -, -, -, rfl⟩ := eqwrBody_ok h
    rfl

/-- Outside the fault state a command ends with the FCODE of a fault exactly when its body raises that fault, and then
FAULT and FCODE alone have changed (R212). -/
theorem exec_fcode_iff {i : Instr} {s t : State} (hf : s.status.fault = false) (hz : s.status.fcode = 0)
    (h : exec i s = .next t) (c : FaultCode) :
    (t.status.fcode = c.fcode ↔ commandBody i s = .error c) ∧
      (t.status.fcode = c.fcode → t = { s with status := s.status.withFault c }) := by
  obtain ⟨htrue, -⟩ | ⟨-, hb⟩ | ⟨-, d, hb, rfl⟩ := exec_cases h
  · simp [hf] at htrue
  · have hne : t.status.fcode ≠ c.fcode := by
      rw [commandBody_ok_fcode hb, hz]
      exact c.fcode_ne_zero.symm
    simp [hne, hb]
  · have hcode : (s.status.withFault d).fcode = c.fcode ↔ d = c := FaultCode.fcode_injective.eq_iff
    simp only [hcode, hb, Except.error.injEq, true_and]
    rintro rfl
    rfl

/-- Settles O17: FCODE 3 and 4 are the codes of DESC_RANGE and EQ_UNIT_RANGE. -/
theorem onlyIllegalFieldsRaiseRangeFaults : Obligations.OnlyIllegalFieldsRaiseRangeFaults := by
  intro i s t hf hz h
  obtain ⟨hdesc, hdescState⟩ := exec_fcode_iff hf hz h .descRange
  obtain ⟨hunit, hunitState⟩ := exec_fcode_iff hf hz h .eqUnitRange
  refine ⟨hdesc.trans commandBody_descRange_iff, hunit.trans commandBody_eqUnitRange_iff, ?_⟩
  rintro (h3 | h4)
  · rw [h3]; exact hdescState h3
  · rw [h4]; exact hunitState h4

/-! ### The worked encodings (R92)

Evaluation alone stops at the binary logarithm of 2^1074, so the two rows with the literal 1.0 go through the value of
that literal. -/

theorem roundDiv_mul_left (q : Nat) {d : Nat} (hd : 0 < d) : roundDiv (q * d) d = q := by
  have hrem : ¬(2 * 0 > d ∨ (2 * 0 = d ∧ q % 2 = 1)) := by omega
  simp only [roundDiv, Nat.mul_div_cancel _ hd, Nat.mul_mod_left, if_neg hrem]

/-- A fraction of equal numerator and denominator is the binary64 1.0: biased exponent 0x3FF and significand 2^52. -/
theorem nearestBinary64Bits_self {d : Nat} (hd : 0 < d) : nearestBinary64Bits d d = 0x3FF <<< 52 := by
  have hlog (n : Nat) : Nat.log2 ((d <<< n) / d) = n := by
    rw [Nat.shiftLeft_eq, Nat.mul_div_cancel_left _ hd, Nat.log2_two_pow]
  have hunits : d <<< 1074 = 2 ^ 52 * (d <<< 1022) := by
    rw [Nat.mul_comm, ← Nat.shiftLeft_eq, ← Nat.shiftLeft_add]
  have hstep (n : Nat) : 0 < d <<< n := by
    rw [Nat.shiftLeft_eq]
    exact Nat.mul_pos hd (Nat.two_pow_pos _)
  simp only [nearestBinary64Bits, hlog]
  rw [hunits, roundDiv_mul_left _ (hstep 1022)]
  decide

theorem parseBinary64_one : parseBinary64 ['1', '.', '0'] = some 0x3FF0000000000000 := by
  have hliteral : parseLiteral ['1', '.', '0'] = some (10, 10) := by decide
  have hvalue : nearestBinary64 false 10 10 = 0x3FF0000000000000 := by
    rw [nearestBinary64, nearestBinary64Bits_self (by decide)]
    decide
  simp [parseBinary64, parseSign, hliteral, hvalue]

theorem parseBinary64_zero : parseBinary64 ['0'] = some 0 := by decide

/-- A line whose tokens stand for a command assembles to it. -/
theorem assembleLine_of_lineTokens {c : Config} {line mnemonic : String} {ops : List (List Char)} {i : Instr}
    (ht : lineTokens line = some (mnemonic, ops)) (hp : parseCommand c mnemonic ops = some i) :
    assembleLine c line = .command i := by
  simp [assembleLine, ht, hp]

theorem assembleLine_coefenc_one :
    assembleLine Config.tcfg "COEFENC 1.0" = .command (.coefenc 0x3FF0000000000000) := by
  have ht : lineTokens "COEFENC 1.0" = some ("COEFENC", [['1', '.', '0']]) := by decide
  exact assembleLine_of_lineTokens ht (by simp [parseCommand, parseBinary64_one])

theorem assembleLine_eqwr_one :
    assembleLine Config.tcfg "EQWR 1, 1.0, 0, 0, 0, 0" = .command (.eqwr 1 0x3FF0000000000000 0 0 0 0) := by
  have ht : lineTokens "EQWR 1, 1.0, 0, 0, 0, 0" =
      some ("EQWR", [['1'], ['1', '.', '0'], ['0'], ['0'], ['0'], ['0']]) := by decide
  have hunit : parseBelow 3 ['1'] = some 1 := by decide
  exact assembleLine_of_lineTokens ht (by simp [parseCommand, hunit, parseBinary64_one, parseBinary64_zero])

/-- Settles O4, row by row of R92: what the assembler makes of the text, the command's words, what they decode to. -/
theorem workedEncodingsDecode : Obligations.WorkedEncodingsDecode := by
  simp only [Obligations.WorkedEncodingsDecode, List.forall_mem_cons]
  refine ⟨?setup, ?pwrg, ?pwro, ?encframe, ?sendframe, ?noteon, ?noteoff, ?noteev, ?coefenc, ?eqwr,
    List.forall_mem_nil _⟩
  case coefenc => exact ⟨assembleLine_coefenc_one, by decide, by decide⟩
  case eqwr => exact ⟨assembleLine_eqwr_one, by decide, by decide⟩
  all_goals exact ⟨by decide, by decide, by decide⟩

end Sys2Proof.Machine
end

section
/-! SUPPORT. The family 41_frame_packer.md: which descriptor lists are admitted (R101), what the encoder leaves in each
byte of the frame (R106, R112), what decoding a field gives back (R107, R111), the voice payload (R109), and the
obligations O9, O30, O31 and O32. -/

namespace Sys2Proof.Machine

/-! ### The checks of one descriptor (W1, W3, W5) -/

theorem fieldFitsByte_iff (d : Descriptor) :
    fieldFitsByte d = true ↔ 1 ≤ d.bitWidth ∧ d.bitWidth ≤ 8 ∧ d.bitShift + d.bitWidth ≤ 8 :=
  decide_eq_true_iff

theorem maskAgrees_iff (d : Descriptor) : maskAgrees d = true ↔ pmask d = 0xFF ^^^ fmask d :=
  beq_iff_eq

theorem domainFits_count {d : Descriptor} {n : Nat} (h : d.domain = .count n) :
    domainFits d = true ↔ 1 ≤ n ∧ n ≤ 2 ^ d.bitWidth := by
  simp only [domainFits, h, decide_eq_true_iff]

theorem domainFits_range {d : Descriptor} {lo hi : Nat} (h : d.domain = .range lo hi) :
    domainFits d = true ↔ lo ≤ hi ∧ hi ≤ 2 ^ d.bitWidth - 1 := by
  simp only [domainFits, h, decide_eq_true_iff]

theorem descriptorOk_iff (d : Descriptor) :
    descriptorOk d = true ↔ fieldFitsByte d = true ∧ maskAgrees d = true ∧ domainFits d = true := by
  simp only [descriptorOk, Bool.and_eq_true, and_assoc]

/-- The four copies of one operator descriptor lie at different bytes: the stride is not 0 (R103). -/
theorem operatorByte_injective (d : Descriptor) : Function.Injective (operatorByte d) := by
  intro k l h
  have hbytes : d.byteOffset + 7 * k.val = d.byteOffset + 7 * l.val := h
  omega

/-! ### No overlap (W4) -/

/-- Two places, each a byte and a field mask, share no bit of the frame. -/
def PlacesApart (p q : Nat × Byte) : Prop := p.1 = q.1 → p.2 &&& q.2 = 0

theorem PlacesApart.symm {p q : Nat × Byte} (h : PlacesApart p q) : PlacesApart q p := fun hbyte => by
  rw [BitVec.and_comm, h hbyte.symm]

theorem placesDisjoint_iff (c : Config) : placesDisjoint c = true ↔ (fieldPlaces c).Pairwise PlacesApart :=
  decide_eq_true_iff

/-- For a symmetric relation the pairs of a list can be taken in either order of their indices. -/
theorem pairwise_iff_getElem_ne {α : Type} {R : α → α → Prop} (hsymm : ∀ {x y}, R x y → R y x) (l : List α) :
    l.Pairwise R ↔ ∀ i j (hi : i < l.length) (hj : j < l.length), i ≠ j → R l[i] l[j] := by
  rw [List.pairwise_iff_getElem]
  refine ⟨fun h i j hi hj hne => ?_, fun h i j hi hj hlt => h i j hi hj (by omega)⟩
  obtain hlt | hgt := Nat.lt_or_gt_of_ne hne
  · exact h i j hi hj hlt
  · exact hsymm (h j i hj hi hgt)

theorem generalPlaces_pairwise_iff (dg : List Descriptor) :
    (dg.map fun d => (d.byteOffset, fmask d)).Pairwise PlacesApart ↔
      ∀ i j (hi : i < dg.length) (hj : j < dg.length), i ≠ j →
        dg[i].byteOffset = dg[j].byteOffset → fmask dg[i] &&& fmask dg[j] = 0 := by
  rw [List.pairwise_map, pairwise_iff_getElem_ne PlacesApart.symm]
  rfl

theorem operatorPlaces_pairwise_iff (dop : List Descriptor) :
    (dop.flatMap fun d => (List.finRange 4).map fun k => (operatorByte d k, fmask d)).Pairwise PlacesApart ↔
      ∀ i j (hi : i < dop.length) (hj : j < dop.length) (k l : Fin 4), i ≠ j ∨ k ≠ l →
        operatorByte dop[i] k = operatorByte dop[j] l → fmask dop[i] &&& fmask dop[j] = 0 := by
  have hown (d : Descriptor) :
      ((List.finRange 4).map fun k => (operatorByte d k, fmask d)).Pairwise PlacesApart :=
    List.pairwise_map.mpr ((List.nodup_finRange 4).imp fun hne hbyte => absurd (operatorByte_injective d hbyte) hne)
  simp only [List.pairwise_flatMap, hown, implies_true, true_and, List.forall_mem_map]
  rw [pairwise_iff_getElem_ne fun h k hk l hl => (h l hl k hk).symm]
  constructor
  · intro h i j hi hj k l hne hbyte
    by_cases hij : i = j
    · subst hij
      exact absurd (operatorByte_injective _ hbyte) (hne.resolve_left (· rfl))
    · exact h i j hi hj hij k (List.mem_finRange k) l (List.mem_finRange l) hbyte
  · exact fun h i j hi hj hij k _ l _ => h i j hi hj k l (.inl hij)

theorem generalOperatorPlaces_iff (dg dop : List Descriptor) :
    (∀ p ∈ dg.map (fun d => (d.byteOffset, fmask d)),
      ∀ q ∈ dop.flatMap (fun d => (List.finRange 4).map fun k => (operatorByte d k, fmask d)), PlacesApart p q) ↔
      ∀ i j (hi : i < dg.length) (hj : j < dop.length) (k : Fin 4),
        dg[i].byteOffset = operatorByte dop[j] k → fmask dg[i] &&& fmask dop[j] = 0 := by
  simp only [List.forall_mem_map, List.forall_mem_flatMap, List.forall_mem_iff_getElem (l := dg),
    List.forall_mem_iff_getElem (l := dop)]
  exact ⟨fun h i j hi hj k => h i hi j hj k (List.mem_finRange k), fun h i hi j hj k _ => h i j hi hj k⟩

/-! ### Admitted descriptor lists (R101) -/

/-- The check on the lists, conjunct by conjunct, each of W1 to W5 over both lists at once. -/
theorem descriptorsAdmitted_iff (c : Config) :
    descriptorsAdmitted c = true ↔
      c.dg.length ≤ Config.maxDescriptors ∧ c.dop.length ≤ Config.maxDescriptors ∧
      (∀ d, d ∈ c.dg ∨ d ∈ c.dop → descriptorOk d = true) ∧
      (∀ d ∈ c.dg, d.byteOffset ≤ 29) ∧ (∀ d ∈ c.dop, operatorByte d 3 ≤ 29) ∧ placesDisjoint c = true ∧
      (c.dg.map Descriptor.name).Nodup ∧ (c.dop.map Descriptor.name).Nodup := by
  simp only [descriptorsAdmitted, generalInFrame, operatorInFrame, namesUnique,
    Bool.and_eq_true, List.all_eq_true, decide_eq_true_iff, or_imp, forall_and, and_assoc]

theorem descriptorsAdmitted_of_wellFormed {c : Config} (h : c.wellFormed = true) : descriptorsAdmitted c = true :=
  (Bool.and_eq_true_iff.mp h).1

/-- Without admitted lists there is no block (R223). -/
theorem step_refused_of_not_admitted {s : State} (h : descriptorsAdmitted s.cfg = false) :
    step s = .refused .configRefused := by
  have hw : s.cfg.wellFormed = false := by rw [Config.wellFormed, configAdmitted, h, Bool.false_and]
  simp [step, hw]

/-- W4 by the lists its two placements come from. -/
theorem placesDisjoint_iff_lists (c : Config) :
    placesDisjoint c = true ↔
      (∀ i j (hi : i < c.dg.length) (hj : j < c.dg.length), i ≠ j →
        c.dg[i].byteOffset = c.dg[j].byteOffset → fmask c.dg[i] &&& fmask c.dg[j] = 0) ∧
      (∀ i j (hi : i < c.dop.length) (hj : j < c.dop.length) (k l : Fin 4), i ≠ j ∨ k ≠ l →
        operatorByte c.dop[i] k = operatorByte c.dop[j] l → fmask c.dop[i] &&& fmask c.dop[j] = 0) ∧
      ∀ i j (hi : i < c.dg.length) (hj : j < c.dop.length) (k : Fin 4),
        c.dg[i].byteOffset = operatorByte c.dop[j] k → fmask c.dg[i] &&& fmask c.dop[j] = 0 := by
  rw [placesDisjoint_iff, fieldPlaces, List.pairwise_append, generalPlaces_pairwise_iff, operatorPlaces_pairwise_iff,
    generalOperatorPlaces_iff]

/-- Settles O9: the check conjunct by conjunct, and W4 by the lists the two placements come from. -/
theorem admittedListsAreThoseOfW1ToW6 : Obligations.AdmittedListsAreThoseOfW1ToW6 := by
  refine ⟨fun s => step_refused_of_not_admitted, fun c => ?_⟩
  intro mask either
  rw [descriptorsAdmitted_iff, placesDisjoint_iff_lists]
  constructor
  · rintro ⟨hdg, hdop, hok, hgeneral, hoperator, ⟨hgg, hoo, hgo⟩, hnames⟩
    refine ⟨hdg, hdop, fun d hd => ?W1, hgeneral, hoperator, fun d hd => ?W3, hgg, hgo, hoo, fun d hd => ?W5, hnames⟩
    all_goals obtain ⟨hfits, hmask, hdomain⟩ := (descriptorOk_iff d).mp (hok d hd)
    case W1 => exact (fieldFitsByte_iff d).mp hfits
    case W3 => exact (maskAgrees_iff d).mp hmask
    case W5 =>
      cases h : d.domain with
      | count n => exact (domainFits_count h).mp hdomain
      | range lo hi => exact (domainFits_range h).mp hdomain
  · rintro ⟨hdg, hdop, hfits, hgeneral, hoperator, hmask, hgg, hgo, hoo, hdomain, hnames⟩
    refine ⟨hdg, hdop, fun d hd => ?_, hgeneral, hoperator, ⟨hgg, hoo, hgo⟩, hnames⟩
    refine (descriptorOk_iff d).mpr ⟨(fieldFitsByte_iff d).mpr (hfits d hd), (maskAgrees_iff d).mpr (hmask d hd), ?_⟩
    have hd := hdomain d hd
    cases h : d.domain with
    | count n => exact (domainFits_count h).mpr (by simpa only [h] using hd)
    | range lo hi => exact (domainFits_range h).mpr (by simpa only [h] using hd)

/-! ### Field bits (R102) -/

/-- The bits of a field lie inside its mask. -/
theorem fieldBits_and_fmask (d : Descriptor) (v : Byte) : fieldBits d v &&& fmask d = fieldBits d v := by
  rw [fieldBits, fmask, ← BitVec.shiftLeft_and_distrib, BitVec.and_assoc, BitVec.and_self]

/-- The preserve mask keeps exactly the bits outside the field (W3). -/
theorem pmask_eq_not_fmask {d : Descriptor} (h : maskAgrees d = true) : pmask d = ~~~fmask d :=
  ((maskAgrees_iff d).mp h).trans BitVec.allOnes_xor

theorem and_pmask_and_fmask {d : Descriptor} (h : maskAgrees d = true) (b : Byte) : b &&& pmask d &&& fmask d = 0 := by
  rw [pmask_eq_not_fmask h, BitVec.and_assoc, BitVec.not_and_self]
  exact BitVec.and_zero

/-- A byte whose field is clear is kept whole by the preserve mask (W3). -/
theorem and_pmask_of_and_fmask {d : Descriptor} (h : maskAgrees d = true) {b : Byte} (hb : b &&& fmask d = 0) :
    b &&& pmask d = b := by
  rw [pmask_eq_not_fmask h]
  ext i hi
  have hbit : (b[i] && (fmask d)[i]) = false := by simp [← BitVec.getElem_and, hb]
  rw [BitVec.getElem_and, BitVec.getElem_not]
  cases hfield : (fmask d)[i] <;> simp_all

/-- Masking with `vmask` keeps the low `bit_width` bits (W1). -/
theorem toNat_and_vmask {d : Descriptor} (h : fieldFitsByte d = true) (v : Byte) :
    (v &&& vmask d).toNat = v.toNat % 2 ^ d.bitWidth := by
  obtain ⟨-, hwidth, -⟩ := (fieldFitsByte_iff d).mp h
  have hpow : 2 ^ d.bitWidth ≤ 2 ^ 8 := Nat.pow_le_pow_right (by decide) hwidth
  have hpos : 0 < 2 ^ d.bitWidth := Nat.two_pow_pos _
  rw [BitVec.toNat_and, vmask, BitVec.toNat_ofNat, Nat.mod_eq_of_lt (by omega), Nat.and_two_pow_sub_one_eq_mod]

/-- Moving the field bits back gives the value's low `bit_width` bits: none left the byte (W1). -/
theorem fieldBits_ushiftRight {d : Descriptor} (h : fieldFitsByte d = true) (v : Byte) :
    fieldBits d v >>> d.bitShift = v &&& vmask d := by
  obtain ⟨-, -, hfit⟩ := (fieldFitsByte_iff d).mp h
  have hlow : (v &&& vmask d).toNat < 2 ^ d.bitWidth := by
    rw [toNat_and_vmask h]
    exact Nat.mod_lt _ (Nat.two_pow_pos _)
  have hplaced : (v &&& vmask d).toNat <<< d.bitShift < 2 ^ 8 :=
    calc (v &&& vmask d).toNat <<< d.bitShift
        = (v &&& vmask d).toNat * 2 ^ d.bitShift := Nat.shiftLeft_eq _ _
      _ < 2 ^ d.bitWidth * 2 ^ d.bitShift := Nat.mul_lt_mul_of_pos_right hlow (Nat.two_pow_pos _)
      _ = 2 ^ (d.bitWidth + d.bitShift) := (Nat.pow_add _ _ _).symm
      _ ≤ 2 ^ 8 := Nat.pow_le_pow_right (by decide) (by omega)
  apply BitVec.eq_of_toNat_eq
  rw [fieldBits, BitVec.toNat_ushiftRight, BitVec.toNat_shiftLeft, Nat.mod_eq_of_lt hplaced, Nat.shiftLeft_shiftRight]

/-- The field's mask moved back is `vmask` (W1). -/
theorem fmask_ushiftRight {d : Descriptor} (h : fieldFitsByte d = true) : fmask d >>> d.bitShift = vmask d := by
  have hself := fieldBits_ushiftRight h (vmask d)
  rwa [fieldBits, BitVec.and_self] at hself

/-- A value of its domain is its own low `bit_width` bits (W5). -/
theorem and_vmask_of_inDomain {d : Descriptor} (hok : descriptorOk d = true) {v : Byte} (hv : inDomain d v = true) :
    v &&& vmask d = v := by
  obtain ⟨hfits, -, hdomain⟩ := (descriptorOk_iff d).mp hok
  have hlt : v.toNat < 2 ^ d.bitWidth := by
    have hpos : 0 < 2 ^ d.bitWidth := Nat.two_pow_pos _
    cases h : d.domain with
    | count n =>
      have hbound := (domainFits_count h).mp hdomain
      simp only [inDomain, h, decide_eq_true_iff] at hv
      omega
    | range lo hi =>
      have hbound := (domainFits_range h).mp hdomain
      simp only [inDomain, h, decide_eq_true_iff] at hv
      omega
  apply BitVec.eq_of_toNat_eq
  rw [toNat_and_vmask hfits, Nat.mod_eq_of_lt hlt]

/-! ### Packing a list of placements (R106, R112) -/

/-- A placement's byte and field mask (R103). -/
def Placement.place (p : Placement) : Nat × Byte := (p.byte, fmask p.desc)

/-- A byte with a placement's field bits put in, as R112 has it: no preserve mask. -/
def orField (b : Byte) (p : Placement) : Byte := b ||| fieldBits p.desc p.value

/-- The placements agree with their masks (W3) and share no bit (W4). It does not depend on their order. -/
structure Packable (ps : List Placement) : Prop where
  masks : ∀ p ∈ ps, maskAgrees p.desc = true
  apart : ps.Pairwise fun p q => PlacesApart p.place q.place

theorem Packable.perm {ps qs : List Placement} (h : Packable ps) (hperm : qs.Perm ps) : Packable qs where
  masks p hp := h.masks p (hperm.mem_iff.mp hp)
  apart := (hperm.pairwise_iff PlacesApart.symm).mpr h.apart

theorem orField_rightComm (b : Byte) (p q : Placement) : orField (orField b p) q = orField (orField b q) p := by
  simp only [orField, BitVec.or_assoc, BitVec.or_comm (fieldBits p.desc p.value)]

theorem packField_getElem (f : Frame) (p : Placement) {n : Nat} (hn : n < 30) :
    (packField f p)[n] = if p.byte = n then (f[n] &&& pmask p.desc) ||| fieldBits p.desc p.value else f[n] := by
  rw [packField, Vector.getElem_setIfInBounds]
  split
  next h => subst h; rw [Vector.getElem?_eq_getElem hn, Option.getD_some]
  next => rfl

/-- Over a frame with the placements' fields clear, the preserve masks do nothing: each byte gets the field bits of its
own placements, by OR. -/
theorem foldl_packField_getElem {n : Nat} (hn : n < 30) (ps : List Placement) (f : Frame) (h : Packable ps)
    (hclear : ∀ p ∈ ps, p.byte = n → f[n] &&& fmask p.desc = 0) :
    (ps.foldl packField f)[n] = (ps.filter fun p => p.byte = n).foldl orField f[n] := by
  induction ps generalizing f with
  | nil => rfl
  | cons p ps ih =>
    obtain ⟨hmask, hmasks⟩ := List.forall_mem_cons.mp h.masks
    obtain ⟨hapart, haparts⟩ := List.pairwise_cons.mp h.apart
    obtain ⟨hclearp, hclears⟩ := List.forall_mem_cons.mp hclear
    rw [List.foldl_cons]
    by_cases hbyte : p.byte = n
    · have hp : (packField f p)[n] = orField f[n] p := by
        rw [packField_getElem f p hn, if_pos hbyte, and_pmask_of_and_fmask hmask (hclearp hbyte), orField]
      rw [ih _ ⟨hmasks, haparts⟩ ?later, List.filter_cons_of_pos (by simpa using hbyte), List.foldl_cons, hp]
      intro q hq hqbyte
      have hdisjoint : fmask p.desc &&& fmask q.desc = 0 := hapart q hq (hbyte.trans hqbyte.symm)
      rw [hp, orField, BitVec.and_or_distrib_right, hclears q hq hqbyte, ← fieldBits_and_fmask, BitVec.and_assoc,
        hdisjoint]
      simp
    · have hp : (packField f p)[n] = f[n] := by rw [packField_getElem f p hn, if_neg hbyte]
      rw [ih _ ⟨hmasks, haparts⟩ (by rwa [hp]), List.filter_cons_of_neg (by simpa using hbyte), hp]

/-- Byte `n` of a frame packed from 30 bytes of 0x00. -/
theorem pack_getElem {ps : List Placement} (h : Packable ps) {n : Nat} (hn : n < 30) :
    (ps.foldl packField (Vector.replicate 30 0))[n] = (ps.filter fun p => p.byte = n).foldl orField 0 := by
  rw [foldl_packField_getElem hn ps _ h fun p _ _ => ?clear, Vector.getElem_replicate]
  case clear => rw [Vector.getElem_replicate]; exact BitVec.zero_and

/-- Any order of the placements packs the same frame. -/
theorem pack_perm {ps qs : List Placement} (h : Packable ps) (hperm : qs.Perm ps) :
    qs.foldl packField (Vector.replicate 30 0) = ps.foldl packField (Vector.replicate 30 0) := by
  ext n hn : 1
  rw [pack_getElem h hn, pack_getElem (h.perm hperm) hn]
  exact (hperm.filter _).foldl_eq' (fun p _ q _ b => orField_rightComm b p q) 0

/-! ### Reading a field of a packed frame (R107, R111) -/

/-- `decode_field` at the byte and field of a placement (R107). -/
def Placement.decodeFrom (p : Placement) (f : Frame) : Byte :=
  (f[p.byte]?.getD 0) >>> p.desc.bitShift &&& vmask p.desc

theorem decodeGeneralField_eq_decodeFrom (f : Frame) (d : Descriptor) (v : Byte) :
    decodeGeneralField f d = Placement.decodeFrom ⟨d.byteOffset, d, v⟩ f := rfl

theorem decodeOperatorField_eq_decodeFrom (f : Frame) (d : Descriptor) (k : Fin 4) (v : Byte) :
    decodeOperatorField f d k = Placement.decodeFrom ⟨operatorByte d k, d, v⟩ f := rfl

/-- A field decoded right after its placement was packed. -/
theorem decodeFrom_packField {p : Placement} (hbyte : p.byte < 30) (hok : descriptorOk p.desc = true) (f : Frame) :
    p.decodeFrom (packField f p) = p.value &&& vmask p.desc := by
  obtain ⟨hfits, hmask, -⟩ := (descriptorOk_iff p.desc).mp hok
  have hfield : (packField f p)[p.byte] &&& fmask p.desc = fieldBits p.desc p.value := by
    rw [packField_getElem f p hbyte, if_pos rfl, BitVec.and_or_distrib_right, and_pmask_and_fmask hmask,
      fieldBits_and_fmask]
    exact BitVec.zero_or
  calc p.decodeFrom (packField f p)
      = (packField f p)[p.byte] >>> p.desc.bitShift &&& vmask p.desc := by
        rw [Placement.decodeFrom, Vector.getElem?_eq_getElem hbyte, Option.getD_some]
    _ = ((packField f p)[p.byte] &&& fmask p.desc) >>> p.desc.bitShift := by
        rw [BitVec.ushiftRight_and_distrib, fmask_ushiftRight hfits]
    _ = p.value &&& vmask p.desc := by rw [hfield, fieldBits_ushiftRight hfits]

/-- A field decoded after all placements: its own placement may as well have been the last. -/
theorem decodeFrom_pack {ps : List Placement} (h : Packable ps) {p : Placement} (hp : p ∈ ps) (hbyte : p.byte < 30)
    (hok : descriptorOk p.desc = true) :
    p.decodeFrom (ps.foldl packField (Vector.replicate 30 0)) = p.value &&& vmask p.desc := by
  obtain ⟨before, after, rfl⟩ := List.append_of_mem hp
  have hlast : (before ++ after ++ [p]).Perm (before ++ p :: after) :=
    (List.perm_append_singleton p _).trans List.perm_middle.symm
  rw [← pack_perm h hlast, List.foldl_append]
  exact decodeFrom_packField hbyte hok _

/-! ### The placements of an admitted configuration (R103) -/

theorem mem_placements {dg dop : List Descriptor} {pvG : List Byte} {pvO : Vector (List Byte) 4} {p : Placement} :
    p ∈ placements dg dop pvG pvO ↔
      (∃ (i : Nat) (h : i < dg.length), p = ⟨dg[i].byteOffset, dg[i], pvG.getD i 0⟩) ∨
      ∃ (j : Nat) (h : j < dop.length) (k : Fin 4), p = ⟨operatorByte dop[j] k, dop[j], pvO[k].getD j 0⟩ := by
  simp only [placements, List.mem_append, List.mem_map, List.mem_flatMap, Prod.exists, List.mk_mem_zipIdx_iff_getElem?,
    List.getElem?_eq_some_iff, List.mem_finRange, true_and]
  constructor
  · rintro (⟨d, i, ⟨hi, rfl⟩, rfl⟩ | ⟨d, j, ⟨hj, rfl⟩, k, rfl⟩)
    · exact .inl ⟨i, hi, rfl⟩
    · exact .inr ⟨j, hj, k, rfl⟩
  · rintro (⟨i, hi, rfl⟩ | ⟨j, hj, k, rfl⟩)
    · exact .inl ⟨_, i, ⟨hi, rfl⟩, rfl⟩
    · exact .inr ⟨_, j, ⟨hj, rfl⟩, k, rfl⟩

/-- The places the admission check looks at are those the encoder packs. -/
theorem placements_map_place (c : Config) (pvG : List Byte) (pvO : Vector (List Byte) 4) :
    (placements c.dg c.dop pvG pvO).map Placement.place = fieldPlaces c := by
  have hgeneral := congrArg (List.map fun d => (d.byteOffset, fmask d)) (List.zipIdx_map_fst 0 c.dg)
  have hoperator := congrArg
    (List.flatMap fun d => (List.finRange 4).map fun k => (operatorByte d k, fmask d)) (List.zipIdx_map_fst 0 c.dop)
  rw [List.map_map] at hgeneral
  rw [List.flatMap_map] at hoperator
  rw [fieldPlaces, ← hgeneral, ← hoperator, placements, List.map_append, List.map_map, List.map_flatMap]
  simp only [List.map_map]
  rfl

section Admitted
variable {c : Config} (hw : c.wellFormed = true) (pvG : List Byte) (pvO : Vector (List Byte) 4)
include hw

/-- Every placement lies in the frame (W2) and its descriptor passes W1, W3 and W5. -/
theorem placement_admitted {p : Placement} (hp : p ∈ placements c.dg c.dop pvG pvO) :
    p.byte < 30 ∧ descriptorOk p.desc = true := by
  obtain ⟨-, -, hok, hgeneral, hoperator, -⟩ :=
    (descriptorsAdmitted_iff c).mp (descriptorsAdmitted_of_wellFormed hw)
  obtain ⟨i, hi, rfl⟩ | ⟨j, hj, k, rfl⟩ := mem_placements.mp hp
  · have hmem := List.getElem_mem hi
    exact ⟨Nat.lt_succ_of_le (hgeneral _ hmem), hok _ (.inl hmem)⟩
  · have hmem := List.getElem_mem hj
    have hlast : c.dop[j].byteOffset + 7 * 3 ≤ 29 := hoperator _ hmem
    refine ⟨?_, hok _ (.inr hmem)⟩
    show c.dop[j].byteOffset + 7 * k.val < 30
    omega

theorem packable_placements : Packable (placements c.dg c.dop pvG pvO) where
  masks p hp := by
    obtain ⟨-, hok⟩ := placement_admitted hw pvG pvO hp
    obtain ⟨-, hmask, -⟩ := (descriptorOk_iff p.desc).mp hok
    exact hmask
  apart := by
    obtain ⟨-, -, -, -, -, hdisjoint, -⟩ :=
      (descriptorsAdmitted_iff c).mp (descriptorsAdmitted_of_wellFormed hw)
    rw [← List.pairwise_map (f := Placement.place) (R := PlacesApart), placements_map_place]
    exact (placesDisjoint_iff c).mp hdisjoint

/-- R111 for one placement of an encoded frame, general or operator. -/
theorem decodeFrom_encodeVoiceFrame {p : Placement} (hp : p ∈ placements c.dg c.dop pvG pvO) :
    p.decodeFrom (encodeVoiceFrame c.dg c.dop pvG pvO) = p.value &&& vmask p.desc ∧
      (inDomain p.desc p.value = true → p.decodeFrom (encodeVoiceFrame c.dg c.dop pvG pvO) = p.value) := by
  obtain ⟨hbyte, hok⟩ := placement_admitted hw pvG pvO hp
  have hlow : p.decodeFrom (encodeVoiceFrame c.dg c.dop pvG pvO) = p.value &&& vmask p.desc :=
    decodeFrom_pack (packable_placements hw pvG pvO) hp hbyte hok
  exact ⟨hlow, fun hdomain => hlow.trans (and_vmask_of_inDomain hok hdomain)⟩

end Admitted

/-- Settles O30: disjoint fields leave the preserve masks nothing to do, and OR does not see the order. -/
theorem frameByteIsTheOrOfItsFields : Obligations.FrameByteIsTheOrOfItsFields := by
  intro c pvG pvO hw
  have h := packable_placements hw pvG pvO
  exact ⟨fun n hn => pack_getElem h hn, fun qs hperm => pack_perm h hperm⟩

/-- Settles O31: each field is one placement of the frame. -/
theorem encodedFieldsDecodeToTheirValues : Obligations.EncodedFieldsDecodeToTheirValues := by
  intro c pvG pvO hw f
  refine ⟨fun i hi => ?general, fun j hj k => ?operator⟩
  case general =>
    rw [decodeGeneralField_eq_decodeFrom f c.dg[i] (pvG.getD i 0)]
    exact decodeFrom_encodeVoiceFrame hw pvG pvO (mem_placements.mpr (.inl ⟨i, hi, rfl⟩))
  case operator =>
    rw [decodeOperatorField_eq_decodeFrom f c.dop[j] k (pvO[k].getD j 0)]
    exact decodeFrom_encodeVoiceFrame hw pvG pvO (mem_placements.mpr (.inr ⟨j, hj, k, rfl⟩))

/-! ### The voice payload (R109) -/

/-- Element `n` of copy `v` of a list written several times over. -/
theorem getElem?_flatten_replicate {α : Type} {l : List α} {m v n : Nat} (hv : v < m) (hn : n < l.length) :
    (List.replicate m l).flatten[l.length * v + n]? = l[n]? := by
  induction v generalizing m with
  | zero =>
    obtain ⟨m, rfl⟩ := Nat.exists_eq_succ_of_ne_zero hv.ne'
    rw [List.replicate_succ, List.flatten_cons, Nat.mul_zero, Nat.zero_add, List.getElem?_append_left hn]
  | succ v ih =>
    obtain ⟨m, rfl⟩ := Nat.exists_eq_succ_of_ne_zero (Nat.ne_zero_of_lt hv)
    have hskip : l.length * (v + 1) + n = l.length + (l.length * v + n) := by rw [Nat.mul_succ]; omega
    rw [List.replicate_succ, List.flatten_cons, hskip, List.getElem?_append_right (Nat.le_add_right _ _),
      Nat.add_sub_cancel_left, ih (by omega)]

/-- The sixteen copies of a frame hold 480 bytes. -/
theorem length_frameCopies (f : Frame) : (List.replicate Config.voiceCopies f.toList).flatten.length = 480 := by
  simp [Config.voiceCopies]

/-- Settles O32: the header ends before byte 2, the copies before byte 482. -/
theorem voicePayloadLayout : Obligations.VoicePayloadLayout := by
  intro c f
  have hcopies := length_frameCopies f
  have hhead : (c.hdr.toList ++ (List.replicate Config.voiceCopies f.toList).flatten).length = 482 := by
    rw [List.length_append, hcopies, Vector.length_toList]
  refine ⟨?length, fun n hn => ?header, fun v n hn hv => ?copy, fun n hn => ?trailer⟩
  case length => rw [voicePayload, List.length_append, hhead, Vector.length_toList]
  case header =>
    rw [voicePayload, List.append_assoc, List.getElem?_append_left (by simpa using hn)]
    simp [hn]
  case copy =>
    have hpos : 2 + 30 * v + n - c.hdr.toList.length = f.toList.length * v + n := by
      rw [Vector.length_toList, Vector.length_toList]
      omega
    rw [voicePayload, List.getElem?_append_left (by omega), List.getElem?_append_right (by simp; omega), hpos,
      getElem?_flatten_replicate (m := Config.voiceCopies) hv (by simpa using hn)]
    simp [hn]
  case trailer =>
    rw [voicePayload, List.getElem?_append_right (by omega), hhead, Nat.add_sub_cancel_left]
    simp [hn]

end Sys2Proof.Machine
end

section
/-! SUPPORT. The family 43_voice_allocator.md: NOTEON with velocity 0 (R161), and the obligation O36. -/

namespace Sys2Proof.Machine

/-! ### NOTEON with velocity 0 (R161) -/

/-- Velocity 0 takes NOTEON's note-off branch, behind the same INIT_DONE check as NOTEOFF's. -/
theorem noteonBody_zero (note : Byte) : noteonBody note 0 = noteoffBody note := by
  unfold noteonBody noteoffBody
  exact congrArg requireInit (funext fun _ => congrArg Except.ok (if_pos rfl))

/-- R161 for the whole command, in the fault state and before SETUP too. -/
theorem exec_noteon_zero (note : Byte) (s : State) : exec (.noteon note 0) s = exec (.noteoff note) s := by
  rw [exec_eq_runCommand, exec_eq_runCommand]
  exact congrArg (runCommand · s) (noteonBody_zero note)

/-- A note-off selects no voice, so LAST_VOICE stays (R27, R160). -/
theorem noteOffEffect_lastVoice (n : Byte) (s : State) : (noteOffEffect n s).lastVoice = s.lastVoice := by
  obtain ⟨-, h⟩ | ⟨k, -, -, h⟩ := noteOffEffect_cases n s <;> simp [h]

/-- NOTEOFF, faulting or not, keeps LAST_VOICE. -/
theorem exec_noteoff_lastVoice {note : Byte} {s t : State} (h : exec (.noteoff note) s = .next t) :
    t.lastVoice = s.lastVoice := by
  obtain ⟨-, rfl⟩ | ⟨-, hb⟩ | ⟨-, c, -, rfl⟩ := exec_cases h
  · rfl
  · obtain ⟨-, rfl⟩ := noteoffBody_ok hb
    exact noteOffEffect_lastVoice note s
  · rfl

/-- Settles O36: both commands run the same body, which keeps LAST_VOICE. -/
theorem noteonWithVelocityZeroIsNoteoff : Obligations.NoteonWithVelocityZeroIsNoteoff := by
  intro s note
  obtain ⟨t, ht⟩ : ∃ t, exec (.noteoff note) s = .next t := runCommand_answers (noteoffBody note) s
  exact ⟨exec_noteon_zero note s, t, (exec_noteon_zero note s).trans ht, exec_noteoff_lastVoice ht⟩

end Sys2Proof.Machine
end

section
/-! SUPPORT. The family 44_coeff_codec.md: the outcomes of the coefficient encoder (R181), its code of a zero (R182 to
R185), and the obligations O47 and O48. -/

namespace Sys2Proof.Machine

/-! ### The operand check (R181) -/

theorem b64NonFinite_iff (x : Binary64) : b64NonFinite x = true ↔ x.extractLsb' 52 11 = 0x7FF := beq_iff_eq

theorem coeffEncode_of_nonFinite {x : Binary64} (h : b64NonFinite x = true) :
    coeffEncode x = .error .coeffNonfinite := if_pos h

/-- R182 to R185 for a finite operand. -/
theorem coeffEncode_of_finite {x : Binary64} (h : b64NonFinite x ≠ true) :
    coeffEncode x = .ok (codeWord (b64Negative x) (integerField (b64Magnitude x))
      (fractionExpansion (b64Magnitude x)).1, decide ((fractionExpansion (b64Magnitude x)).2 ≠ 0)) := if_neg h

/-- Settles O48: the encoder branches on nothing but the exponent field. -/
theorem exactlyTheNonFiniteOperandsAreRejected : Obligations.ExactlyTheNonFiniteOperandsAreRejected := by
  intro x
  refine ⟨fun hexp => ?nonFinite, fun hexp => ?finite⟩
  case nonFinite => exact coeffEncode_of_nonFinite ((b64NonFinite_iff x).mpr hexp)
  case finite => exact ⟨_, coeffEncode_of_finite (mt (b64NonFinite_iff x).mp hexp)⟩

/-! ### The code of a zero (R194) -/

theorem b64One_pos : 0 < b64One := by decide

/-- A zero of either sign is not negative (R182). -/
theorem b64Negative_of_magnitude_zero {x : Binary64} (h : b64Magnitude x = 0) : b64Negative x = false := by
  simp [b64Negative, h]

theorem integerField_zero : integerField 0 = 0 := by simp [integerField]

/-- Doubling a zero remainder takes off 0 bits only (R184). -/
theorem doubleOut_zero (n : Nat) : doubleOut n 0 0 = (0, 0) := by
  induction n with
  | zero => rfl
  | succ n ih =>
    have hbelow : ¬ 2 * 0 ≥ b64One := Nat.not_le.mpr b64One_pos
    have hshift : (0 : BitVec 20) <<< 1 = 0 := BitVec.zero_shiftLeft 1
    rw [doubleOut, if_neg hbelow, hshift, ih]

theorem fractionExpansion_zero : fractionExpansion 0 = (0, 0) := by
  rw [fractionExpansion, Nat.zero_mod, doubleOut_zero]

theorem codeWord_zero : codeWord false 0 0 = 0 := rfl

/-- An operand of magnitude zero, whatever its sign bit, has the zero code. -/
theorem coeffEncode_of_magnitude_zero {x : Binary64} (hfinite : b64NonFinite x ≠ true) (hzero : b64Magnitude x = 0) :
    coeffEncode x = .ok (0, false) := by
  rw [coeffEncode_of_finite hfinite, b64Negative_of_magnitude_zero hzero, hzero, integerField_zero,
    fractionExpansion_zero, codeWord_zero]
  rfl

theorem coeffDecode_zero : coeffDecode 0 = 0 := by simp [coeffDecode]

/-- Settles O47: both patterns are finite and of magnitude zero. -/
theorem bothZerosEncodeToZero : Obligations.BothZerosEncodeToZero := by
  refine ⟨fun x hx => ?encode, coeffDecode_zero⟩
  obtain rfl | rfl : x = 0x0000000000000000 ∨ x = 0x8000000000000000 := by simpa using hx
  case encode.inl => exact coeffEncode_of_magnitude_zero (by decide) (by decide)
  case encode.inr => exact coeffEncode_of_magnitude_zero (by decide) (by decide)

end Sys2Proof.Machine
end

section
/-! SUPPORT. The family 60_exceptions.md: what a command without a fault leaves of STATUS (R30 to R32), what a step does in
and out of the fault state (R212, R214), and the obligations O18 and O20. -/

namespace Sys2Proof.Machine

/-! ### A command without a fault leaves FAULT and FCODE alone -/

theorem noteOffEffect_status (n : Byte) (s : State) : (noteOffEffect n s).status = s.status := by
  obtain ⟨-, h⟩ | ⟨k, -, -, h⟩ := noteOffEffect_cases n s <;> simp [h]

theorem noteOnEffect_status (n : Byte) (vel : Velocity) (s : State) : (noteOnEffect n vel s).status = s.status := by
  obtain ⟨sel, evict, -, h⟩ := noteOnEffect_form n vel s
  simp [h]

/-- Of STATUS, a body that completes writes at most INIT_DONE and INEXACT. -/
theorem commandBody_ok_status {i : Instr} {s t : State} (h : commandBody i s = .ok t) :
    ∃ initDone inexact, t.status = { s.status with initDone := initDone, inexact := inexact } := by
  cases i with
  | setup => obtain rfl := setupBody_ok h; exact ⟨_, _, rfl⟩
  | pwrg idx val => obtain ⟨-, rfl⟩ := pwrgBody_ok h; exact ⟨_, _, rfl⟩
  | pwro idx opi val => obtain ⟨-, rfl⟩ := pwroBody_ok h; exact ⟨_, _, rfl⟩
  | encframe => obtain rfl := encframeBody_ok h; exact ⟨_, _, rfl⟩
  | sendframe => obtain ⟨-, rfl⟩ := sendframeBody_ok h; exact ⟨_, _, rfl⟩
  | noteon note vel =>
    obtain ⟨-, ⟨-, ht⟩ | ⟨-, ht⟩⟩ := noteonBody_ok h
    · exact ⟨_, _, ht ▸ noteOffEffect_status note s⟩
    · exact ⟨_, _, ht ▸ noteOnEffect_status note vel s⟩
  | noteoff note =>
    obtain ⟨-, ht⟩ := noteoffBody_ok h
    exact ⟨_, _, ht ▸ noteOffEffect_status note s⟩
  | noteev voice hi lo vel => obtain ⟨-, rfl⟩ := noteevBody_ok h; exact ⟨_, _, rfl⟩
  | coefenc x => obtain ⟨r, -, rfl⟩ := coefencBody_ok h; exact ⟨_, _, rfl⟩
  | eqwr unit b0 b1 b2 a1 a2 =>
    obtain ⟨-, -, r0, r1, r2, r3, r4, -, -, -, -, -, rfl⟩ := eqwrBody_ok h
    exact ⟨_, _, rfl⟩

theorem commandBody_ok_fault {i : Instr} {s t : State} (h : commandBody i s = .ok t) :
    t.status.fault = s.status.fault := by
  obtain ⟨_, _, hst⟩ := commandBody_ok_status h
  rw [hst]

/-! ### Entering the fault state (R212) -/

/-- A command enters the fault state only by its body raising a fault, and then FAULT and FCODE alone have changed. -/
theorem exec_fault_entry {i : Instr} {s t : State} (hs : s.status.fault = false) (h : exec i s = .next t)
    (ht : t.status.fault = true) :
    ∃ c : FaultCode, commandBody i s = .error c ∧ t = { s with status := s.status.withFault c } := by
  obtain ⟨hfault, -⟩ | ⟨-, hb⟩ | ⟨-, hraised⟩ := exec_cases h
  · simp [hs] at hfault
  · simp [commandBody_ok_fault hb, hs] at ht
  · exact hraised

/-- A step enters the fault state only by a command that faults or by an illegal word, and then FAULT, FCODE and the words
at the port alone have changed. -/
theorem step_fault_entry {s t : State} (hs : s.status.fault = false) (h : step s = .next t)
    (ht : t.status.fault = true) : ∃ c : FaultCode, t = { s with port := t.port, status := s.status.withFault c } := by
  obtain ⟨-, ⟨-, rfl⟩ | ⟨-, ⟨i, rest, -, he⟩ | ⟨why, rest, -, rfl⟩ | ⟨-, rfl⟩⟩⟩ := step_cases h
  case inl => simp at ht
  case inr.inl =>
    obtain ⟨c, -, rfl⟩ := exec_fault_entry (s := s.setPort rest) hs he ht
    exact ⟨c, rfl⟩
  case inr.inr.inl =>
    rw [State.raiseFault_entry (s := s.setPort rest) hs]
    exact ⟨illegalWordFault why, rfl⟩
  case inr.inr.inr => simp [hs] at ht

/-- Settles O18, from the two ways into the fault state. -/
theorem faultsArePrecise : Obligations.FaultsArePrecise := by
  refine ⟨fun i s t hs h ht => ?command, fun s t hs h ht => step_fault_entry hs h ht⟩
  case command =>
    obtain ⟨c, -, hentry⟩ := exec_fault_entry hs h ht
    exact ⟨c, hentry⟩

/-! ### Leaving the fault state (R213, R214) -/

/-- In the fault state a command has no effect. -/
theorem exec_faulted {i : Instr} {s : State} (hs : s.status.fault = true) : exec i s = .next s :=
  (exec_eq_runCommand i s).trans (runCommand_faulted hs _)

/-- In the fault state a step either takes the reset or changes nothing but the words at the port. -/
theorem step_faulted_cases {s t : State} (hs : s.status.fault = true) (h : step s = .next t) :
    (s.resetLine = true ∧ t = s.takeReset) ∨ (s.resetLine = false ∧ t = s.setPort t.port) := by
  obtain ⟨-, hreset | ⟨hr, ⟨i, rest, -, he⟩ | ⟨why, rest, -, rfl⟩ | ⟨-, rfl⟩⟩⟩ := step_cases h
  · exact .inl hreset
  · rw [exec_faulted (s := s.setPort rest) hs] at he
    cases he
    exact .inr ⟨hr, rfl⟩
  · rw [State.raiseFault_faulted (s := s.setPort rest) hs]
    exact .inr ⟨hr, rfl⟩
  · exact .inr ⟨hr, rfl⟩

/-- Settles O20: a step that is not the reset keeps the whole of STATUS. -/
theorem onlyResetLeavesTheFaultState : Obligations.OnlyResetLeavesTheFaultState := by
  intro s t hs h
  obtain ⟨hr, rfl⟩ | ⟨-, ht⟩ := step_faulted_cases hs h
  · exact .inr ⟨hr, rfl⟩
  · have hstatus : t.status = s.status := by rw [ht, State.setPort_status]
    exact .inl ⟨hstatus ▸ hs, hstatus ▸ rfl⟩

end Sys2Proof.Machine
end

section
/-! SUPPORT. The command words of 30_encoding.md: a word is the OR of its placed fields (R75 to R83), so that encoding
and decoding undo each other and R85's table tells the commands apart; the obligations O1, O2 and O3. -/

namespace Sys2Proof

/-! ### Fields of a word, placed and read back (R75) -/

theorem wordField_or (x y : Word) (lo len : Nat) :
    wordField (x ||| y) lo len = wordField x lo len ||| wordField y lo len :=
  BitVec.extractLsb'_or

/-- A placed field is read back where it was placed. -/
theorem wordField_placeField {n : Nat} (lo : Nat) (v : BitVec n) (h : lo + n ≤ 32) :
    wordField (placeField lo v) lo n = v := by
  refine BitVec.eq_of_getLsbD_eq fun i hi => ?_
  simp only [wordField, BitVec.getLsbD_extractLsb', getLsbD_placeField]
  simp [hi, show lo + i < 32 by omega]

/-- A field placed elsewhere does not show. -/
theorem wordField_placeField_apart {n : Nat} {lo lo' len : Nat} (v : BitVec n) (h : lo' + n ≤ lo ∨ lo + len ≤ lo') :
    wordField (placeField lo' v) lo len = 0 := by
  refine BitVec.eq_of_getLsbD_eq fun i hi => ?_
  simp only [wordField, BitVec.getLsbD_extractLsb', getLsbD_placeField]
  obtain h | h := h
  · simp [BitVec.getLsbD_of_ge v (lo + i - lo') (by omega)]
  · simp [show lo + i < lo' by omega]

/-- OPC does not show in a field below it. -/
theorem wordField_opcodeBits (op : Opcode) {lo len : Nat} (h : lo + len ≤ 28) :
    wordField (opcodeBits op) lo len = 0 :=
  wordField_placeField_apart (opcodeValue op) (.inr h)

/-- A placed field does not show through a mask that is 0 over it. -/
theorem placeField_and_eq_zero {n : Nat} {lo : Nat} (v : BitVec n) {mask : Word} (h : mask.extractLsb' lo n = 0) :
    placeField lo v &&& mask = 0 := by
  refine BitVec.eq_of_getLsbD_eq fun i hi => ?_
  rw [BitVec.getLsbD_and, getLsbD_placeField]
  by_cases hlow : i < lo
  · simp [hlow]
  by_cases hhigh : i - lo < n
  · have hbit : mask.getLsbD i = false := by
      have := congrArg (·.getLsbD (i - lo)) h
      simpa [BitVec.getLsbD_extractLsb', hhigh, show lo + (i - lo) = i by omega] using this
    simp [hbit]
  · simp [BitVec.getLsbD_of_ge v (i - lo) (by omega)]

/-- A field read and placed again is the word under the field's mask. -/
theorem placeField_wordField (w : Word) (lo len : Nat) :
    placeField lo (wordField w lo len) = w &&& placeField lo (BitVec.allOnes len) := by
  refine BitVec.eq_of_getLsbD_eq fun i hi => ?_
  simp only [BitVec.getLsbD_and, getLsbD_placeField, wordField, BitVec.getLsbD_extractLsb', BitVec.getLsbD_allOnes]
  by_cases hlow : i < lo
  · simp [hlow]
  · simp [hi, hlow, show lo + (i - lo) = i by omega, Bool.and_comm]

/-- The OPC bits of a word are its opcode's. -/
theorem opcodeBits_eq_and {w : Word} {op : Opcode} (h : opcodeField w = opcodeValue op) :
    opcodeBits op = w &&& 0xF0000000 := by
  have hopc : wordField w 28 4 = opcodeValue op := h
  have hplace := placeField_wordField w 28 4
  rw [hopc] at hplace
  exact hplace

/-! ### Binary64 operands (R76) -/

theorem binary64Words_append (hi lo : Word) : binary64Words (hi ++ lo) = [hi, lo] := by
  rw [binary64Words, BitVec.extractLsb'_append_eq_left, BitVec.extractLsb'_append_eq_right]

/-- The operand words 2j and 2j + 1 make a value whose halves they are. -/
theorem binary64Operand_eq {x : Binary64} {ops : List Word} {j : Nat}
    (hhigh : operandWord ops (2 * j) = x.extractLsb' 32 32) (hlow : operandWord ops (2 * j + 1) = x.extractLsb' 0 32) :
    binary64Operand ops j = x := by
  rw [binary64Operand, hhigh, hlow, BitVec.extractLsb'_append_extractLsb']

/-! ### Decoding an encoded command -/

theorem encodedForm (i : Instr) : Laws.EncodedForm.Statement i := by
  cases i with
  | setup => exact Laws.EncodedForm.setup
  | pwrg idx val => exact Laws.EncodedForm.pwrg idx val
  | pwro idx opi val => exact Laws.EncodedForm.pwro idx opi val
  | encframe => exact Laws.EncodedForm.encframe
  | sendframe => exact Laws.EncodedForm.sendframe
  | noteon note vel => exact Laws.EncodedForm.noteon note vel
  | noteoff note => exact Laws.EncodedForm.noteoff note
  | noteev voice hi lo vel => exact Laws.EncodedForm.noteev voice hi lo vel
  | coefenc x => exact Laws.EncodedForm.coefenc x
  | eqwr unit b0 b1 b2 a1 a2 => exact Laws.EncodedForm.eqwr unit b0 b1 b2 a1 a2

theorem opcodeBits_and_reservedMask (op : Opcode) : opcodeBits op &&& reservedMask op = 0 := by
  cases op <;> decide

/-- No field of a command is placed over a reserved bit of its format. -/
theorem encode_reservedBits {i : Instr} {w : Word} {ops : List Word} (h : encode i = w :: ops) :
    w &&& reservedMask i.opcode = 0 := by
  cases i with
  | setup | encframe | sendframe | coefenc _ => cases h; exact opcodeBits_and_reservedMask _
  | pwrg _ _ | pwro _ _ _ | noteon _ _ | noteoff _ | noteev _ _ _ _ | eqwr _ _ _ _ _ _ =>
    cases h
    simp (disch := decide) [BitVec.and_or_distrib_right, placeField_and_eq_zero, Instr.opcode,
      opcodeBits_and_reservedMask]

/-- Each field of an encoded command is read back from its place. -/
theorem readCommand_encode {i : Instr} {w : Word} {ops : List Word} (h : encode i = w :: ops) :
    readCommand i.opcode w ops = i := by
  cases i with
  | setup | encframe | sendframe => rfl
  | pwrg _ _ | pwro _ _ _ | noteon _ _ | noteoff _ | noteev _ _ _ _ =>
    cases h
    simp (disch := decide) [readCommand, Instr.opcode, wordField_or, wordField_opcodeBits, wordField_placeField,
      wordField_placeField_apart]
  | coefenc x =>
    cases h
    exact congrArg Instr.coefenc (binary64Operand_eq rfl rfl)
  | eqwr unit b0 b1 b2 a1 a2 =>
    cases h
    have hunit : wordField (opcodeBits .eqwr ||| placeField 0 unit) 0 2 = unit := by
      simp (disch := decide) [wordField_or, wordField_opcodeBits, wordField_placeField]
    simp only [Instr.opcode, readCommand, Instr.eqwr.injEq]
    exact ⟨hunit, binary64Operand_eq rfl rfl, binary64Operand_eq rfl rfl, binary64Operand_eq rfl rfl,
      binary64Operand_eq rfl rfl, binary64Operand_eq rfl rfl⟩

/-- Settles O1: the encoding has the decoder's form, its reserved bits are 0 and its fields are read back. -/
theorem decodeUndoesEncode : Obligations.DecodeUndoesEncode := by
  intro i rest
  obtain ⟨w, ops, he, hopc, hlen⟩ := encodedForm i
  rw [he, List.cons_append, decode_command hopc (by simp [hlen]) (encode_reservedBits he), ← hlen,
    List.take_left, List.drop_left, readCommand_encode he]

/-! ### Encoding a decoded command -/

/-- A word whose reserved bits are 0 is unchanged by a mask of all the other bits. -/
theorem and_eq_self_of_reservedBits {w mask reserved : Word} (h : w &&& reserved = 0) (hmask : mask = ~~~reserved) :
    w &&& mask = w := by
  calc w &&& mask = w &&& mask ||| w &&& reserved := by rw [h]; exact BitVec.or_zero.symm
    _ = w &&& (mask ||| reserved) := BitVec.and_or_distrib_left.symm
    _ = w := by rw [hmask, BitVec.not_or_self, BitVec.and_allOnes]

/-- Encoding the fields of a word with its reserved bits 0 gives the word and its operand words back. -/
theorem encode_readCommand {op : Opcode} {w : Word} {ops : List Word} (hopc : opcodeField w = opcodeValue op)
    (hreserved : w &&& reservedMask op = 0) (hlen : ops.length = operandWords op) :
    encode (readCommand op w ops) = w :: ops := by
  have hword {mask : Word} (hmask : mask = ~~~reservedMask op) : w &&& mask = w :=
    and_eq_self_of_reservedBits hreserved hmask
  cases op with
  | setup | encframe | sendframe =>
    rw [readCommand, encode, opcodeBits_eq_and hopc, hword (by decide), List.length_eq_zero_iff.mp hlen]
  | pwrg | pwro | noteon | noteoff | noteev =>
    simp only [readCommand, encode, opcodeBits_eq_and hopc, placeField_wordField, ← BitVec.and_or_distrib_left]
    rw [hword (by decide), List.length_eq_zero_iff.mp hlen]
  | coefenc =>
    obtain ⟨x0, x1, rfl⟩ := List.length_eq_two.mp hlen
    rw [readCommand, encode, opcodeBits_eq_and hopc, hword (by decide)]
    exact congrArg _ (binary64Words_append x0 x1)
  | eqwr =>
    match ops, hlen with
    | [x0, x1, x2, x3, x4, x5, x6, x7, x8, x9], _ =>
      simp only [readCommand, encode, opcodeBits_eq_and hopc, placeField_wordField, ← BitVec.and_or_distrib_left]
      rw [hword (by decide)]
      simp [binary64Operand, operandWord, binary64Words_append]

/-- A command is read only from a whole word group of its opcode with the reserved bits 0. -/
theorem decode_eq_command {w : Word} {after rest : List Word} {i : Instr} (h : decode (w :: after) = .command i rest) :
    ∃ op, opcodeField w = opcodeValue op ∧ w &&& reservedMask op = 0 ∧ operandWords op ≤ after.length ∧
      i = readCommand op w (after.take (operandWords op)) ∧ rest = after.drop (operandWords op) := by
  obtain ⟨-, hd⟩ | ⟨op, hop, ⟨-, hd⟩ | ⟨hlen, hreserved, hd⟩ | ⟨-, -, hd⟩⟩ := decode_cons_cases w after
  case inr.inr.inl =>
    cases hd.symm.trans h
    exact ⟨op, (opcodeOf_eq_some_iff _ op).mp hop, hreserved, hlen, rfl, rfl⟩
  all_goals cases hd.symm.trans h

/-- Settles O2: the fields of the word group a command is read from are encoded to that word group. -/
theorem encodeUndoesDecode : Obligations.EncodeUndoesDecode := by
  intro ws rest i h
  cases ws with
  | nil => cases h
  | cons w after =>
    obtain ⟨op, hopc, hreserved, hlen, rfl, rfl⟩ := decode_eq_command h
    rw [encode_readCommand hopc hreserved (List.length_take_of_le hlen), List.cons_append, List.take_append_drop]

/-! ### The match and mask table (R85) -/

theorem matchWord_eq (op : Opcode) : op.matchWord = opcodeBits op := by cases op <;> rfl

/-- The mask of a mnemonic covers OPC and the reserved bits of its format. -/
theorem maskWord_eq (op : Opcode) : op.maskWord = 0xF0000000 ||| reservedMask op := by cases op <;> rfl

/-- A word matches a mnemonic exactly when its OPC is the mnemonic's and its reserved bits are 0. -/
theorem and_maskWord_eq_iff (w : Word) (op : Opcode) :
    w &&& op.maskWord = op.matchWord ↔ opcodeField w = opcodeValue op ∧ w &&& reservedMask op = 0 := by
  rw [maskWord_eq, matchWord_eq]
  constructor
  · intro h
    have hreserved : w &&& reservedMask op = (w &&& (0xF0000000 ||| reservedMask op)) &&& reservedMask op := by
      rw [BitVec.and_assoc]; congr 1; cases op <;> rfl
    have hopc : opcodeField w = opcodeField (w &&& (0xF0000000 ||| reservedMask op)) := by
      rw [opcodeField, opcodeField, BitVec.extractLsb'_and]
      cases op <;> exact (BitVec.and_allOnes).symm
    rw [h] at hreserved hopc
    exact ⟨hopc.trans (Laws.opcodeField_opcodeBits op), hreserved.trans (opcodeBits_and_reservedMask op)⟩
  · rintro ⟨hopc, hreserved⟩
    rw [BitVec.and_or_distrib_left, hreserved, opcodeBits_eq_and hopc]
    exact BitVec.or_zero

/-- Settles O3: the decoder's two checks, of OPC and of the reserved bits, are R85's one. -/
theorem matchAndMaskSelectTheMnemonic : Obligations.MatchAndMaskSelectTheMnemonic := by
  intro op w after hlen
  rw [and_maskWord_eq_iff]
  refine ⟨⟨?selected, ?matching⟩, ?illegal⟩
  case selected =>
    rintro ⟨i, rest, h, rfl⟩
    obtain ⟨op, hopc, hreserved, -, rfl, -⟩ := decode_eq_command h
    rw [readCommand_opcode]
    exact ⟨hopc, hreserved⟩
  case matching =>
    rintro ⟨hopc, hreserved⟩
    exact ⟨_, _, decode_command ((opcodeOf_eq_some_iff _ op).mpr hopc) hlen hreserved, readCommand_opcode op w _⟩
  case illegal =>
    intro hopc hmatch
    exact decode_reservedBits ((opcodeOf_eq_some_iff _ op).mpr hopc) hlen
      fun hreserved => hmatch ((and_maskWord_eq_iff w op).mpr ⟨hopc, hreserved⟩)

end Sys2Proof
end

section
/-! SUPPORT. The step, said from its premises (20_memory.md R60, R63; 70_reset_and_hazards.md R240), which fault a
command raises (60_exceptions.md R211), and the obligations O5, O6, O10, O12, O15, O16 and O19. -/

namespace Sys2Proof

/-! ### The length of a command (R84, R89) -/

theorem commandLength_listed {w : Word} {op : Opcode} (h : opcodeOf (opcodeField w) = some op) :
    commandLength w = 1 + operandWords op := by
  simp [commandLength, h]

theorem commandLength_reserved {w : Word} (h : opcodeOf (opcodeField w) = none) : commandLength w = 1 := by
  simp [commandLength, h]

/-- A stream shorter than its first word announces holds no whole command. -/
theorem decode_of_length_lt {w : Word} {after : List Word} (h : (w :: after).length < commandLength w) :
    decode (w :: after) = .incomplete := by
  rw [List.length_cons] at h
  cases hop : opcodeOf (opcodeField w) with
  | none => rw [commandLength_reserved hop] at h; omega
  | some op =>
    rw [commandLength_listed hop] at h
    exact decode_short hop (by omega)

/-- A stream as long as its first word announces loses exactly those words, to a command or to an illegal word. -/
theorem decode_of_length_le {w : Word} {after : List Word} (h : commandLength w ≤ (w :: after).length) :
    (∃ i, decode (w :: after) = .command i ((w :: after).drop (commandLength w))) ∨
      ∃ why, decode (w :: after) = .illegal why ((w :: after).drop (commandLength w)) := by
  rw [List.length_cons] at h
  obtain ⟨hop, hd⟩ | ⟨op, hop, ⟨hlen, -⟩ | ⟨-, -, hd⟩ | ⟨-, -, hd⟩⟩ := decode_cons_cases w after
  · exact .inr ⟨_, by rw [hd, commandLength_reserved hop]; rfl⟩
  · rw [commandLength_listed hop] at h
    omega
  · exact .inl ⟨_, by rw [hd, commandLength_listed hop, Nat.add_comm, List.drop_succ_cons]⟩
  · exact .inr ⟨_, by rw [hd, commandLength_listed hop, Nat.add_comm, List.drop_succ_cons]⟩

end Sys2Proof

namespace Sys2Proof.Machine

/-! ### What a step does -/

/-- A configuration that is not admitted has no block (R223). -/
theorem step_refused {s : State} (hw : s.cfg.wellFormed = false) : step s = .refused .configRefused := by
  simp [step, hw]

section Admitted
variable {s : State} (hw : s.cfg.wellFormed = true)
include hw

theorem step_reset (hr : s.resetLine = true) : step s = .next s.takeReset := by
  simp [step, hw, hr]

theorem step_command {i : Instr} {rest : List Word} (hr : s.resetLine = false) (hd : decode s.port = .command i rest) :
    step s = exec i (s.setPort rest) := by
  have hn : s.nextCommand = .command i rest := hd
  simp [step, hw, hr, hn]

theorem step_illegal {why : IllegalWord} {rest : List Word} (hr : s.resetLine = false)
    (hd : decode s.port = .illegal why rest) :
    step s = .next ((s.setPort rest).raiseFault (illegalWordFault why)) := by
  have hn : s.nextCommand = .illegal why rest := hd
  simp [step, hw, hr, hn]

theorem step_incomplete (hr : s.resetLine = false) (hd : decode s.port = .incomplete) : step s = .next s := by
  have hn : s.nextCommand = .incomplete := hd
  simp [step, hw, hr, hn]

end Admitted

theorem exec_answers (i : Instr) (s : State) : ∃ t, exec i s = .next t := by
  rw [exec_eq_runCommand]
  exact runCommand_answers _ s

/-- In an admitted configuration every step answers a next state. -/
theorem step_answers {s : State} (hw : s.cfg.wellFormed = true) : ∃ t, step s = .next t := by
  cases hr : s.resetLine with
  | true => exact ⟨_, step_reset hw hr⟩
  | false =>
    cases hd : decode s.port with
    | command i rest => rw [step_command hw hr hd]; exact exec_answers i _
    | illegal why rest => exact ⟨_, step_illegal hw hr hd⟩
    | incomplete => exact ⟨_, step_incomplete hw hr hd⟩

/-- Settles O5. -/
theorem stepRunsTheDecodedCommand : Obligations.StepRunsTheDecodedCommand :=
  fun _ _ _ hw hr hd => step_command hw hr hd

/-- Settles O6: an empty port and a port with part of a command are both incomplete to the decoder. -/
theorem stepWaitsForAWholeCommand : Obligations.StepWaitsForAWholeCommand := by
  rintro s hw hr (hport | ⟨w, after, hport, hlen⟩)
  · exact step_incomplete hw hr (hport ▸ decode_nil)
  · rw [hport] at hlen
    exact step_incomplete hw hr (hport ▸ decode_of_length_lt hlen)

/-- Settles O12. -/
theorem resetRestoresTheResetState : Obligations.ResetRestoresTheResetState :=
  fun _ hw hr => step_reset hw hr

/-- Settles O15: a sound state's configuration is admitted. -/
theorem soundStatesAlwaysStep : Obligations.SoundStatesAlwaysStep :=
  fun _ hs => step_answers hs.admitted

/-! ### PARAM_INIT (R38) -/

theorem paramInitFits_iff (c : Config) :
    paramInitFits c = true ↔
      c.paramInitG.length = c.dg.length ∧ ∀ k : Fin 4, c.paramInitO[k].length = c.dop.length := by
  simp [paramInitFits]

theorem paramInitFits_of_wellFormed {c : Config} (h : c.wellFormed = true) : paramInitFits c = true :=
  (Bool.and_eq_true_iff.mp h).2

/-- Settles O10: the admission check fails at the lists or at PARAM_INIT. -/
theorem unadmittedConfigurationsAreRefused : Obligations.UnadmittedConfigurationsAreRefused := by
  intro s h
  refine step_refused (Bool.eq_false_iff.mpr fun hw => ?_)
  obtain ⟨hgeneral, hoperator⟩ := (paramInitFits_iff _).mp (paramInitFits_of_wellFormed hw)
  obtain hlists | hg | ⟨k, hk⟩ := h
  · rw [descriptorsAdmitted_of_wellFormed hw] at hlists
    cases hlists
  · exact hg hgeneral
  · exact hk (hoperator k)

/-! ### Which fault a command raises (R210, R211) -/

/-- The fault of an index or unit out of its range (R88). -/
def rangeFault : Instr → FaultCode
  | .eqwr _ _ _ _ _ _ => .eqUnitRange
  | _ => .descRange

theorem commandBody_illegal {i : Instr} {s : State} (h : i.legal s.cfg = false) :
    commandBody i s = .error (rangeFault i) := by
  cases i with
  | pwrg idx val => exact pwrgBody_error.mpr ⟨by simpa [Instr.legal] using h, rfl⟩
  | pwro idx opi val => exact pwroBody_error.mpr ⟨by simpa [Instr.legal] using h, rfl⟩
  | eqwr unit b0 b1 b2 a1 a2 => exact if_neg (by simpa [Instr.legal] using h)
  | setup | encframe | sendframe | noteon _ _ | noteoff _ | noteev _ _ _ _ | coefenc _ => cases h

theorem commandBody_notInitialized {i : Instr} {s : State} (hlegal : i.legal s.cfg = true)
    (hsetup : i.needsSetup = true) (hinit : s.status.initDone = false) : commandBody i s = .error .notInitialized := by
  cases i with
  | sendframe | noteon _ _ | noteoff _ | noteev _ _ _ _ =>
    simp only [commandBody, sendframeBody, noteonBody, noteoffBody, noteevBody, requireInit_error hinit]
  | eqwr unit b0 b1 b2 a1 a2 => exact (if_pos (of_decide_eq_true hlegal)).trans (requireInit_error hinit _)
  | setup | pwrg _ _ | pwro _ _ _ | encframe | coefenc _ => cases hsetup

/-! The commands behind the INIT_DONE gate, with INIT_DONE set. -/

theorem sendframeBody_open {s : State} (h : s.status.initDone = true) :
    sendframeBody s = .ok ((s.setFb s.voiceFrame).emitAll (burstGroup s.cfg (voicePayload s.cfg s.voiceFrame))) :=
  requireInit_ok h _

theorem noteonBody_open {note : Byte} {vel : Velocity} {s : State} (h : s.status.initDone = true) :
    noteonBody note vel s = .ok (if vel = 0#7 then noteOffEffect note s else noteOnEffect note vel s) :=
  requireInit_ok h _

theorem noteoffBody_open {note : Byte} {s : State} (h : s.status.initDone = true) :
    noteoffBody note s = .ok (noteOffEffect note s) :=
  requireInit_ok h _

theorem noteevBody_open {v : Voice} {hi lo : Byte} {vel : Velocity} {s : State} (h : s.status.initDone = true) :
    noteevBody v hi lo vel s = .ok (s.emitAll (noteEventWrites s.cfg v hi lo vel)) :=
  requireInit_ok h _


theorem eqwrBody_open {unit : BitVec 2} {b0 b1 b2 a1 a2 : Binary64} {s : State} (hunit : unit.toNat < 3)
    (hinit : s.status.initDone = true) : eqwrBody unit b0 b1 b2 a1 a2 s = eqwrEffect unit b0 b1 b2 a1 a2 s :=
  (if_pos hunit).trans (requireInit_ok hinit _)

/-- EQWR with five convertible operands (R191). -/
theorem eqwrEffect_ok {unit : BitVec 2} {b0 b1 b2 a1 a2 : Binary64} {s : State} {r0 r1 r2 r3 r4 : Code × Bool}
    (h0 : coeffEncode b0 = .ok r0) (h1 : coeffEncode b1 = .ok r1) (h2 : coeffEncode b2 = .ok r2)
    (h3 : coeffEncode a1 = .ok r3) (h4 : coeffEncode a2 = .ok r4) :
    eqwrEffect unit b0 b1 b2 a1 a2 s =
      .ok ((s.emitAll (burstGroup s.cfg (eqFrame unit r0.1 r1.1 r2.1 r3.1 r4.1))).setInexact
        (r0.2 || r1.2 || r2.2 || r3.2 || r4.2)) := by
  rw [eqwrEffect, h0, h1, h2, h3, h4]
  rfl

theorem coefencBody_of_ok {x : Binary64} {s : State} {r : Code × Bool} (h : coeffEncode x = .ok r) :
    coefencBody x s = .ok ((s.setCode r.1).setInexact r.2) := by
  rw [coefencBody, h]
  rfl

theorem coefencBody_nonFinite {x : Binary64} {s : State} (h : b64NonFinite x = true) :
    coefencBody x s = .error .coeffNonfinite := by
  rw [coefencBody, coeffEncode_of_nonFinite h]
  rfl

/-- A converted operand is finite (R181). -/
theorem finite_of_coeffEncode_ok {x : Binary64} {r : Code × Bool} (h : coeffEncode x = .ok r) :
    b64NonFinite x ≠ true := fun hx => by
  rw [coeffEncode_of_nonFinite hx] at h
  cases h

theorem commandBody_nonFinite {i : Instr} {s : State} (hlegal : i.legal s.cfg = true)
    (hinit : i.needsSetup = true → s.status.initDone = true)
    (hx : ∃ x ∈ i.binary64Operands, b64NonFinite x = true) : commandBody i s = .error .coeffNonfinite := by
  obtain ⟨x, hmem, hnon⟩ := hx
  cases i with
  | coefenc y =>
    obtain rfl : x = y := by simpa [Instr.binary64Operands] using hmem
    exact coefencBody_nonFinite hnon
  | eqwr unit b0 b1 b2 a1 a2 =>
    show eqwrBody unit b0 b1 b2 a1 a2 s = _
    cases hb : eqwrBody unit b0 b1 b2 a1 a2 s with
    | ok t =>
      obtain ⟨-, -, r0, r1, r2, r3, r4, h0, h1, h2, h3, h4, -⟩ := eqwrBody_ok hb
      have hfinite : ∀ y ∈ (Instr.eqwr unit b0 b1 b2 a1 a2).binary64Operands, b64NonFinite y ≠ true := by
        simp only [Instr.binary64Operands, List.forall_mem_cons]
        exact ⟨finite_of_coeffEncode_ok h0, finite_of_coeffEncode_ok h1, finite_of_coeffEncode_ok h2,
          finite_of_coeffEncode_ok h3, finite_of_coeffEncode_ok h4, List.forall_mem_nil _⟩
      exact absurd hnon (hfinite x hmem)
    | error c =>
      rw [eqwrBody_open (of_decide_eq_true hlegal) (hinit rfl)] at hb
      rw [eqwrEffect_error hb]
  | setup | pwrg _ _ | pwro _ _ _ | encframe | sendframe | noteon _ _ | noteoff _ | noteev _ _ _ _ => cases hmem

theorem commandBody_completes {i : Instr} {s : State} (hlegal : i.legal s.cfg = true)
    (hinit : i.needsSetup = true → s.status.initDone = true)
    (hfinite : ∀ x ∈ i.binary64Operands, b64NonFinite x ≠ true) : ∃ t, commandBody i s = .ok t := by
  cases i with
  | setup | encframe => exact ⟨_, rfl⟩
  | pwrg _ _ | pwro _ _ _ => exact ⟨_, if_pos (of_decide_eq_true hlegal)⟩
  | sendframe => exact ⟨_, sendframeBody_open (hinit rfl)⟩
  | noteon note vel => exact ⟨_, noteonBody_open (hinit rfl)⟩
  | noteoff note => exact ⟨_, noteoffBody_open (hinit rfl)⟩
  | noteev v hi lo vel => exact ⟨_, noteevBody_open (hinit rfl)⟩
  | coefenc x => exact ⟨_, coefencBody_of_ok (coeffEncode_of_finite (hfinite x (by simp [Instr.binary64Operands])))⟩
  | eqwr unit b0 b1 b2 a1 a2 =>
    simp only [Instr.binary64Operands, List.forall_mem_cons] at hfinite
    obtain ⟨h0, h1, h2, h3, h4, -⟩ := hfinite
    exact ⟨_, (eqwrBody_open (of_decide_eq_true hlegal) (hinit rfl)).trans
      (eqwrEffect_ok (coeffEncode_of_finite h0) (coeffEncode_of_finite h1) (coeffEncode_of_finite h2)
        (coeffEncode_of_finite h3) (coeffEncode_of_finite h4))⟩

/-- R211's order for a decoded command: its integer fields, then the INIT_DONE gate, then its binary64 operands. -/
def faultRaised (c : Config) (initDone : Bool) (i : Instr) : Option FaultCode :=
  if i.legal c = false then some (rangeFault i)
  else if i.needsSetup = true ∧ initDone = false then some .notInitialized
  else if ∃ x ∈ i.binary64Operands, b64NonFinite x = true then some .coeffNonfinite
  else none

/-- A body raises R211's fault, which the command, the configuration and INIT_DONE alone decide, or completes. -/
theorem commandBody_outcome (i : Instr) (s : State) :
    (∃ c, faultRaised s.cfg s.status.initDone i = some c ∧ commandBody i s = .error c) ∨
      (faultRaised s.cfg s.status.initDone i = none ∧ ∃ t, commandBody i s = .ok t) := by
  unfold faultRaised
  split
  case isTrue hlegal => exact .inl ⟨_, rfl, commandBody_illegal hlegal⟩
  case isFalse hlegal =>
    have hlegal := Bool.eq_true_of_not_eq_false hlegal
    split
    case isTrue hgate => exact .inl ⟨_, rfl, commandBody_notInitialized hlegal hgate.1 hgate.2⟩
    case isFalse hgate =>
      have hinit : i.needsSetup = true → s.status.initDone = true :=
        fun hsetup => Bool.eq_true_of_not_eq_false fun hno => hgate ⟨hsetup, hno⟩
      split
      case isTrue hx => exact .inl ⟨_, rfl, commandBody_nonFinite hlegal hinit hx⟩
      case isFalse hx => exact .inr ⟨rfl, commandBody_completes hlegal hinit fun x hmem hnon => hx ⟨x, hmem, hnon⟩⟩

/-- Outside the fault state a command whose body raises a fault enters the fault state with its code. -/
theorem exec_of_error {i : Instr} {s : State} {c : FaultCode} (hf : s.status.fault = false)
    (h : commandBody i s = .error c) :
    exec i s = .next { s with status := { s.status with fault := true, fcode := c.fcode } } :=
  (exec_eq_runCommand i s).trans (runCommand_error hf h)

/-- Outside the fault state a command whose body completes has the body's whole effect. -/
theorem exec_of_ok {i : Instr} {s t : State} (hf : s.status.fault = false) (h : commandBody i s = .ok t) :
    exec i s = .next t :=
  (exec_eq_runCommand i s).trans (runCommand_ok hf h)

/-- Settles O16: the four premises are the branches of R211's order. -/
theorem faultsComeInTheStatedOrder : Obligations.FaultsComeInTheStatedOrder := by
  intro i s hf faultWith nonFinite
  have hnonFinite : nonFinite ↔ ∃ x ∈ i.binary64Operands, b64NonFinite x = true := by
    simp only [nonFinite, b64NonFinite_iff]
  refine ⟨fun hlegal => ?range, fun hlegal hsetup hinit => ?gate, fun hlegal hinit hx => ?operand,
    fun hlegal hinit hx => ?completes⟩
  case range =>
    have hexec := exec_of_error hf (commandBody_illegal hlegal)
    cases i <;> exact hexec
  case gate => exact exec_of_error hf (commandBody_notInitialized hlegal hsetup hinit)
  case operand => exact exec_of_error hf (commandBody_nonFinite hlegal hinit (hnonFinite.mp hx))
  case completes =>
    obtain ⟨t, ht⟩ := commandBody_completes hlegal hinit fun x hmem hnon => hx (hnonFinite.mpr ⟨x, hmem, hnon⟩)
    exact ⟨t, exec_of_ok hf ht, (commandBody_ok_fault ht).trans hf⟩

/-! ### The fault state consumes commands (R213) -/

/-- In the fault state a step takes the words of the command at the port and does nothing else. -/
theorem step_faulted_consumes {s : State} {w : Word} {after : List Word} (hf : s.status.fault = true)
    (hw : s.cfg.wellFormed = true) (hr : s.resetLine = false) (hport : s.port = w :: after)
    (hlen : commandLength w ≤ s.port.length) : step s = .next (s.setPort (s.port.drop (commandLength w))) := by
  have hwhole := decode_of_length_le (w := w) (after := after) (hport ▸ hlen)
  rw [← hport] at hwhole
  obtain ⟨i, hd⟩ | ⟨why, hd⟩ := hwhole
  · rw [step_command hw hr hd]
    exact exec_faulted hf
  · rw [step_illegal hw hr hd]
    exact congrArg _ (State.raiseFault_faulted (s := s.setPort (s.port.drop (commandLength w))) hf _)

/-- No readout looks at the words at the port. -/
theorem readout_setPort (s : State) (ws : List Word) (ra : BitVec 16) : (s.setPort ws).readout ra = s.readout ra := rfl

/-- Settles O19. -/
theorem faultStateConsumesAndIgnores : Obligations.FaultStateConsumesAndIgnores := by
  intro s hf
  exact ⟨fun _ => exec_faulted hf, fun w after hw hr hport hlen =>
    ⟨step_faulted_consumes hf hw hr hport hlen, readout_setPort s _⟩⟩

end Sys2Proof.Machine
end

section
/-! SUPPORT. Which command writes and reads which element (10_state.md sections 2 to 6), and the obligations O21, O24
and O25. -/

namespace Sys2Proof.Machine

/-! ### Which command writes which element -/

/-- A note-off writes SLOT and HIST at most. -/
theorem noteOffEffect_frame (n : Byte) (s : State) :
    ∃ slots evs, noteOffEffect n s = (s.emitAll evs).setSlots slots := by
  obtain ⟨-, h⟩ | ⟨k, -, -, h⟩ := noteOffEffect_cases n s
  · exact ⟨s.slots, [], by rw [h]; simp [State.emitAll, State.setSlots]⟩
  · exact ⟨_, _, h⟩

/-- A note-on writes SLOT, LAST_VOICE and HIST at most. -/
theorem noteOnEffect_frame (n : Byte) (vel : Velocity) (s : State) :
    ∃ slots voice evs, noteOnEffect n vel s = ((s.emitAll evs).setSlots slots).setLastVoice voice := by
  obtain ⟨sel, evict, -, h⟩ := noteOnEffect_form n vel s
  exact ⟨_, _, _, by rw [h, List.append_assoc, List.append_assoc]; rfl⟩

/-- Each element has its value of before, but for the commands whose rules write it. -/
structure WritesOnlyItsOwn (i : Instr) (s t : State) : Prop where
  cfg : t.cfg = s.cfg
  port : t.port = s.port
  resetLine : t.resetLine = s.resetLine
  pvG : i.opcode ≠ .pwrg → t.pvG = s.pvG
  pvO : i.opcode ≠ .pwro → t.pvO = s.pvO
  fb : i.opcode ≠ .encframe → i.opcode ≠ .sendframe → t.fb = s.fb
  slots : i.opcode ≠ .noteon → i.opcode ≠ .noteoff → t.slots = s.slots
  lastVoice : (∀ note vel, i = .noteon note vel → vel = 0#7) → t.lastVoice = s.lastVoice
  code : i.opcode ≠ .coefenc → t.code = s.code
  initDone : i.opcode ≠ .setup → t.status.initDone = s.status.initDone
  inexact : i.opcode ≠ .coefenc → i.opcode ≠ .eqwr → t.status.inexact = s.status.inexact
  hist : i.needsSetup = false → i.opcode ≠ .setup → t.hist = s.hist

/-- A command that completes writes its own elements only. -/
theorem commandBody_writes {i : Instr} {s t : State} (h : commandBody i s = .ok t) : WritesOnlyItsOwn i s t := by
  cases i with
  | setup => obtain rfl := setupBody_ok h; constructor <;> simp [Instr.opcode]
  | pwrg idx val => obtain ⟨-, rfl⟩ := pwrgBody_ok h; constructor <;> simp [Instr.opcode]
  | pwro idx opi val => obtain ⟨-, rfl⟩ := pwroBody_ok h; constructor <;> simp [Instr.opcode]
  | encframe => obtain rfl := encframeBody_ok h; constructor <;> simp [Instr.opcode]
  | sendframe => obtain ⟨-, rfl⟩ := sendframeBody_ok h; constructor <;> simp [Instr.opcode, Instr.needsSetup]
  | noteon note vel =>
    obtain ⟨-, ⟨-, ht⟩ | ⟨hvel, ht⟩⟩ := noteonBody_ok h
    · obtain ⟨slots, evs, hoff⟩ := noteOffEffect_frame note s
      rw [ht, hoff]
      constructor <;> simp [Instr.opcode, Instr.needsSetup]
    · obtain ⟨slots, voice, evs, hon⟩ := noteOnEffect_frame note vel s
      rw [ht, hon]
      constructor <;> simp [Instr.opcode, Instr.needsSetup, hvel]
  | noteoff note =>
    obtain ⟨-, rfl⟩ := noteoffBody_ok h
    obtain ⟨slots, evs, hoff⟩ := noteOffEffect_frame note s
    rw [hoff]
    constructor <;> simp [Instr.opcode, Instr.needsSetup]
  | noteev v hi lo vel => obtain ⟨-, rfl⟩ := noteevBody_ok h; constructor <;> simp [Instr.opcode, Instr.needsSetup]
  | coefenc x => obtain ⟨r, -, rfl⟩ := coefencBody_ok h; constructor <;> simp [Instr.opcode]
  | eqwr unit b0 b1 b2 a1 a2 =>
    obtain ⟨-, -, r0, r1, r2, r3, r4, -, -, -, -, -, rfl⟩ := eqwrBody_ok h
    constructor <;> simp [Instr.opcode, Instr.needsSetup]

/-- A command, faulting or not, writes its own elements only: a fault writes FAULT and FCODE. -/
theorem exec_writes {i : Instr} {s t : State} (h : exec i s = .next t) : WritesOnlyItsOwn i s t := by
  obtain ⟨-, rfl⟩ | ⟨-, hb⟩ | ⟨-, c, -, rfl⟩ := exec_cases h
  · constructor <;> simp
  · exact commandBody_writes hb
  · constructor <;> simp

/-- Settles O21. -/
theorem eachElementIsWrittenOnlyByItsCommands : Obligations.EachElementIsWrittenOnlyByItsCommands := by
  intro i s t h
  have hw := exec_writes h
  exact ⟨hw.cfg, hw.port, hw.resetLine, hw.pvG, hw.pvO, hw.fb, hw.slots, hw.lastVoice, hw.code, hw.initDone,
    hw.inexact, hw.hist⟩

/-! ### INIT_DONE (R30) -/

/-- SETUP outside the fault state sets INIT_DONE, every other command leaves it. -/
theorem exec_initDone {i : Instr} {s t : State} (h : exec i s = .next t) :
    t.status.initDone = (s.status.initDone || (decide (i = .setup) && !s.status.fault)) := by
  by_cases hi : i = .setup
  · subst hi
    obtain ⟨hf, rfl⟩ | ⟨hf, hb⟩ | ⟨-, c, hb, -⟩ := exec_cases h
    · simp [hf]
    · simp [setupBody_ok hb, hf]
    · cases hb
  · have hopc : i.opcode ≠ .setup := by cases i <;> simp_all [Instr.opcode]
    simp [(exec_writes h).initDone hopc, hi]

/-- Settles O24. -/
theorem initDoneIsSetBySetupAndClearedByReset : Obligations.InitDoneIsSetBySetupAndClearedByReset := by
  refine ⟨fun i s t => exec_initDone, fun s t h hs ht => ?_⟩
  obtain ⟨-, ⟨hr, -⟩ | ⟨-, ⟨i, rest, -, he⟩ | ⟨why, rest, -, rfl⟩ | ⟨-, rfl⟩⟩⟩ := step_cases h
  · exact hr
  · have hkept := exec_initDone he
    simp [hs, ht] at hkept
  · simp [hs] at ht
  · simp [hs] at ht

/-! ### FB, LAST_VOICE, CODE and HIST are not read (R23, R27, R28, R34) -/

/-- The state with other values of FB, LAST_VOICE, CODE and HIST. -/
def State.withResults (f : Frame) (v : Voice) (c : Code) (h : List BusEvent) (s : State) : State :=
  { s with fb := f, lastVoice := v, code := c, hist := h }

/-- `t` comes of `s` and `t'` of `s` with other results: they differ in the results alone, the same events were
appended, and each register of the results was written alike in both or kept in both. -/
def WrittenAlike (s t : State) (f : Frame) (v : Voice) (c : Code) (h : List BusEvent) (t' : State) : Prop :=
  ∃ evs, t.hist = s.hist ++ evs ∧ t' = t.withResults t'.fb t'.lastVoice t'.code (h ++ evs) ∧
    (t'.fb = t.fb ∨ (t.fb = s.fb ∧ t'.fb = f)) ∧
    (t'.lastVoice = t.lastVoice ∨ (t.lastVoice = s.lastVoice ∧ t'.lastVoice = v)) ∧
    (t'.code = t.code ∨ (t.code = s.code ∧ t'.code = c))

section Results
variable (f : Frame) (v : Voice) (c : Code) (h : List BusEvent)

/-- A state whose STATUS alone changes keeps the results. -/
theorem writtenAlike_status (s : State) (st : Status) :
    WrittenAlike s { s with status := st } f v c h { s.withResults f v c h with status := st } :=
  ⟨[], by simp, by simp [State.withResults], .inr ⟨rfl, rfl⟩, .inr ⟨rfl, rfl⟩, .inr ⟨rfl, rfl⟩⟩

theorem noteOffEffect_writtenAlike (n : Byte) (s : State) :
    WrittenAlike s (noteOffEffect n s) f v c h (noteOffEffect n (s.withResults f v c h)) := by
  unfold noteOffEffect
  cases hfind : (List.finRange 16).find? fun k => s.slots[k].sounds n with
  | none =>
    have hfind' : ((List.finRange 16).find? fun k => (s.withResults f v c h).slots[k].sounds n) = none := hfind
    simp only [hfind']
    exact writtenAlike_status f v c h s s.status
  | some k =>
    have hfind' : ((List.finRange 16).find? fun k => (s.withResults f v c h).slots[k].sounds n) = some k := hfind
    simp only [hfind']
    exact ⟨_, rfl, rfl, .inr ⟨rfl, rfl⟩, .inr ⟨rfl, rfl⟩, .inr ⟨rfl, rfl⟩⟩

theorem noteOnEffect_writtenAlike (n : Byte) (vel : Velocity) (s : State) :
    WrittenAlike s (noteOnEffect n vel s) f v c h (noteOnEffect n vel (s.withResults f v c h)) := by
  obtain ⟨sel, evict, hsel, hs⟩ := noteOnEffect_form n vel s
  obtain ⟨sel', evict', hsel', hs'⟩ := noteOnEffect_form n vel (s.withResults f v c h)
  cases hsel.symm.trans hsel'
  rw [hs, hs']
  simp only [List.append_assoc]
  exact ⟨_, rfl, rfl, .inr ⟨rfl, rfl⟩, .inl rfl, .inr ⟨rfl, rfl⟩⟩

/-- A command that completes completes with other results too, and writes alike. -/
theorem commandBody_writtenAlike {i : Instr} {s t : State} (hb : commandBody i s = .ok t) :
    ∃ t', commandBody i (s.withResults f v c h) = .ok t' ∧ WrittenAlike s t f v c h t' := by
  cases i with
  | setup =>
    obtain rfl := setupBody_ok hb
    exact ⟨_, rfl, _, rfl, rfl, .inr ⟨rfl, rfl⟩, .inr ⟨rfl, rfl⟩, .inr ⟨rfl, rfl⟩⟩
  | pwrg idx val =>
    obtain ⟨hidx, rfl⟩ := pwrgBody_ok hb
    exact ⟨_, if_pos hidx, [], by simp, by simp [State.withResults, State.setParamG], .inr ⟨rfl, rfl⟩, .inr ⟨rfl, rfl⟩,
      .inr ⟨rfl, rfl⟩⟩
  | pwro idx opi val =>
    obtain ⟨hidx, rfl⟩ := pwroBody_ok hb
    exact ⟨_, if_pos hidx, [], by simp, by simp [State.withResults, State.setParamO], .inr ⟨rfl, rfl⟩, .inr ⟨rfl, rfl⟩,
      .inr ⟨rfl, rfl⟩⟩
  | encframe =>
    obtain rfl := encframeBody_ok hb
    exact ⟨_, rfl, [], by simp, by simp [State.withResults, State.setFb], .inl rfl, .inr ⟨rfl, rfl⟩, .inr ⟨rfl, rfl⟩⟩
  | sendframe =>
    obtain ⟨hinit, rfl⟩ := sendframeBody_ok hb
    exact ⟨_, sendframeBody_open hinit, _, rfl, rfl, .inl rfl, .inr ⟨rfl, rfl⟩, .inr ⟨rfl, rfl⟩⟩
  | noteon note vel =>
    obtain ⟨hinit, ⟨hvel, ht⟩ | ⟨hvel, ht⟩⟩ := noteonBody_ok hb
    · refine ⟨_, noteonBody_open hinit, ?_⟩
      rw [if_pos hvel, ht]
      exact noteOffEffect_writtenAlike f v c h note s
    · refine ⟨_, noteonBody_open hinit, ?_⟩
      rw [if_neg hvel, ht]
      exact noteOnEffect_writtenAlike f v c h note vel s
  | noteoff note =>
    obtain ⟨hinit, rfl⟩ := noteoffBody_ok hb
    exact ⟨_, noteoffBody_open hinit, noteOffEffect_writtenAlike f v c h note s⟩
  | noteev voice hi lo vel =>
    obtain ⟨hinit, rfl⟩ := noteevBody_ok hb
    exact ⟨_, noteevBody_open hinit, _, rfl, rfl, .inr ⟨rfl, rfl⟩, .inr ⟨rfl, rfl⟩, .inr ⟨rfl, rfl⟩⟩
  | coefenc x =>
    obtain ⟨r, hr, rfl⟩ := coefencBody_ok hb
    exact ⟨_, coefencBody_of_ok hr, [], by simp, by simp [State.withResults, State.setCode, State.setInexact],
      .inr ⟨rfl, rfl⟩, .inr ⟨rfl, rfl⟩, .inl rfl⟩
  | eqwr unit b0 b1 b2 a1 a2 =>
    obtain ⟨hunit, hinit, r0, r1, r2, r3, r4, h0, h1, h2, h3, h4, rfl⟩ := eqwrBody_ok hb
    have hopen := eqwrBody_open (b0 := b0) (b1 := b1) (b2 := b2) (a1 := a1) (a2 := a2) (s := s.withResults f v c h)
      hunit hinit
    exact ⟨_, hopen.trans (eqwrEffect_ok h0 h1 h2 h3 h4), _, rfl, rfl, .inr ⟨rfl, rfl⟩, .inr ⟨rfl, rfl⟩,
      .inr ⟨rfl, rfl⟩⟩

/-- A command raises the same fault with other results: R211 does not look at them. -/
theorem commandBody_withResults_error {i : Instr} {s : State} {e : FaultCode} (hb : commandBody i s = .error e) :
    commandBody i (s.withResults f v c h) = .error e := by
  have hraised : faultRaised s.cfg s.status.initDone i = some e := by
    obtain ⟨d, hd, hd'⟩ | ⟨-, t, ht⟩ := commandBody_outcome i s
    · rw [hb] at hd'; cases hd'; exact hd
    · rw [hb] at ht; cases ht
  obtain ⟨d, hd, hd'⟩ | ⟨hnone, -⟩ := commandBody_outcome i (s.withResults f v c h)
  · cases hd.symm.trans hraised
    exact hd'
  · cases hnone.symm.trans hraised

/-- A command, faulting or not, writes alike with other results. -/
theorem exec_writtenAlike {i : Instr} {s t : State} (he : exec i s = .next t) :
    ∃ t', exec i (s.withResults f v c h) = .next t' ∧ WrittenAlike s t f v c h t' := by
  obtain ⟨hf, rfl⟩ | ⟨hf, hb⟩ | ⟨hf, e, hb, rfl⟩ := exec_cases he
  · exact ⟨_, exec_faulted hf, writtenAlike_status f v c h t t.status⟩
  · obtain ⟨t', hb', halike⟩ := commandBody_writtenAlike f v c h hb
    exact ⟨t', exec_of_ok hf hb', halike⟩
  · exact ⟨_, exec_of_error hf (commandBody_withResults_error f v c h hb), writtenAlike_status f v c h s _⟩

end Results

/-- Settles O25. -/
theorem resultRegistersAreNeverRead : Obligations.ResultRegistersAreNeverRead := by
  intro i s t f v c h he
  obtain ⟨t', he', evs, hhist, hdiffer, hfb, hvoice, hcode⟩ := exec_writtenAlike f v c h he
  exact ⟨t', evs, he', hhist, hdiffer, hfb, hvoice, hcode⟩

end Sys2Proof.Machine
end

section
/-! SUPPORT. The invariant, part by part: the register files, the slots, FCODE and the output history (10_state.md R21,
R22, R26, R29, R39, R40; 20_memory.md R55), and the obligations O13, O14 and O42. -/

namespace Sys2Proof.Machine

/-! ### Ages (R26) -/

theorem satInc_at_max {a : Age} (h : a.toInt = 2 ^ 31 - 1) : (satInc a).toInt = 2 ^ 31 - 1 := by
  have ha : a = Config.ageMax := BitVec.eq_of_toInt_eq (h.trans (by decide))
  rw [satInc, if_pos ha, h]

theorem satInc_below_max {a : Age} (h : a.toInt ≠ 2 ^ 31 - 1) : (satInc a).toInt = a.toInt + 1 := by
  have hne : a ≠ Config.ageMax := fun ha => h (ha ▸ by decide)
  have hlt : a.toInt < 2 ^ 31 := BitVec.toInt_lt
  have hge : -2 ^ 31 ≤ a.toInt := BitVec.le_toInt a
  rw [satInc, if_neg hne, BitVec.toInt_add, show (1 : Age).toInt = 1 by decide]
  exact Int.bmod_eq_of_le (by omega) (by omega)

/-- Settles O42. -/
theorem agesSaturateInsteadOfWrapping : Obligations.AgesSaturateInsteadOfWrapping :=
  fun _ => ⟨satInc_at_max, satInc_below_max⟩

theorem satInc_nonneg {a : Age} (h : 0 ≤ a.toInt) : 0 ≤ (satInc a).toInt := by
  by_cases hmax : a.toInt = 2 ^ 31 - 1
  · rw [satInc_at_max hmax]; decide
  · rw [satInc_below_max hmax]; omega

/-! ### The slots -/

/-- The invariant's clauses about SLOT. -/
structure SlotsSound (slots : Vector Slot 16) : Prop where
  ageNonneg : ∀ k : SlotIx, 0 ≤ slots[k].age.toInt
  oneActivePerNote : OneActivePerNote slots
  freeIsBlank : ∀ k : SlotIx, slots[k].st = .free → slots[k] = Slot.blank

theorem slotsSound_blank : SlotsSound (Vector.replicate 16 Slot.blank) where
  ageNonneg k := by simp [Slot.blank]
  oneActivePerNote j k hj := by simp [Slot.blank] at hj
  freeIsBlank k _ := by simp

/-- Slots that are as they were or become Aging with an age that is not negative. -/
theorem SlotsSound.of_aging {slots slots' : Vector Slot 16} (h : SlotsSound slots)
    (hslot : ∀ k : SlotIx, slots'[k] = slots[k] ∨ (slots'[k].st = .aging ∧ 0 ≤ slots'[k].age.toInt)) :
    SlotsSound slots' := by
  have hkept {k : SlotIx} {st : SlotState} (hst : slots'[k].st = st) (hne : st ≠ .aging) : slots'[k] = slots[k] :=
    (hslot k).resolve_right fun hk => hne (hst.symm.trans hk.1)
  refine ⟨fun k => ?age, fun j k hj hk hnote => ?one, fun k hfree => ?free⟩
  case age =>
    obtain hk | ⟨-, hage⟩ := hslot k
    · rw [hk]; exact h.ageNonneg k
    · exact hage
  case one =>
    have hj' := hkept hj (by decide)
    have hk' := hkept hk (by decide)
    rw [hj'] at hj hnote
    rw [hk'] at hk hnote
    exact h.oneActivePerNote j k hj hk hnote
  case free =>
    have hk := hkept hfree (by decide)
    rw [hk] at hfree ⊢
    exact h.freeIsBlank k hfree

theorem released_age_nonneg (n : Byte) : 0 ≤ (Slot.released n).age.toInt := Int.le_refl 0

theorem retriggerSlots_sound {slots : Vector Slot 16} (h : SlotsSound slots) (n : Byte) :
    SlotsSound (retriggerSlots slots n) := by
  refine h.of_aging fun k => ?_
  rw [retriggerSlots_getElem]
  split
  · exact .inr ⟨rfl, released_age_nonneg n⟩
  · exact .inl rfl

/-- After the retrigger step no slot sounds the note (R153). -/
theorem retriggerSlots_silent (slots : Vector Slot 16) (n : Byte) (k : SlotIx) :
    ¬ ((retriggerSlots slots n)[k].st = .active ∧ (retriggerSlots slots n)[k].note = n) := by
  rw [retriggerSlots_getElem]
  split
  next => simp [Slot.released]
  next h => rwa [← Slot.sounds_iff]

theorem agedSlots_sound {slots : Vector Slot 16} (h : SlotsSound slots) (c : Config) (sel : SlotIx) (evict : Bool) :
    SlotsSound (agedSlots c slots sel evict) := by
  refine ⟨fun k => ?age, fun j k hj hk hnote => ?one, fun k hfree => ?free⟩
  case age =>
    unfold agedSlots
    split
    · rw [ageOthers_getElem]
      split
      · exact satInc_nonneg (h.ageNonneg k)
      · exact h.ageNonneg k
    · exact h.ageNonneg k
  case one =>
    obtain ⟨hstj, hnotej⟩ := agedSlots_st_note c slots sel evict j
    obtain ⟨hstk, hnotek⟩ := agedSlots_st_note c slots sel evict k
    rw [hstj] at hj
    rw [hstk] at hk
    rw [hnotej, hnotek] at hnote
    exact h.oneActivePerNote j k hj hk hnote
  case free =>
    rw [(agedSlots_st_note c slots sel evict k).1] at hfree
    have hk : (agedSlots c slots sel evict)[k] = slots[k] := by
      unfold agedSlots
      split
      · rw [ageOthers_getElem, if_neg fun hage => hage.2 hfree]
      · rfl
    rw [hk]
    exact h.freeIsBlank k hfree

theorem occupySlot_sound {slots : Vector Slot 16} (h : SlotsSound slots) (sel : SlotIx) {n : Byte}
    (hsilent : ∀ k : SlotIx, ¬ (slots[k].st = .active ∧ slots[k].note = n)) : SlotsSound (occupySlot slots sel n) := by
  refine ⟨fun k => ?age, fun j k hj hk hnote => ?one, fun k hfree => ?free⟩
  case age =>
    rw [occupySlot_getElem]
    split
    · exact Int.le_refl 0
    · exact h.ageNonneg k
  case one =>
    rw [occupySlot_getElem] at hj hk
    rw [occupySlot_getElem, occupySlot_getElem] at hnote
    by_cases hjs : j = sel <;> by_cases hks : k = sel <;> simp only [hjs, hks, if_true, if_false] at hj hk hnote ⊢
    · exact absurd ⟨hk, hnote.symm⟩ (hsilent k)
    · exact absurd ⟨hj, hnote⟩ (hsilent j)
    · exact h.oneActivePerNote j k hj hk hnote
  case free =>
    rw [occupySlot_getElem] at hfree ⊢
    split at hfree
    next => cases hfree
    next hk => rw [if_neg hk]; exact h.freeIsBlank k hfree

theorem noteOffEffect_slots_sound {s : State} (h : SlotsSound s.slots) (n : Byte) :
    SlotsSound (noteOffEffect n s).slots := by
  obtain ⟨-, hoff⟩ | ⟨k, -, -, hoff⟩ := noteOffEffect_cases n s
  · rwa [hoff]
  · rw [hoff]
    refine h.of_aging fun j => ?_
    rw [State.setSlot_getElem]
    split
    · exact .inr ⟨rfl, released_age_nonneg n⟩
    · exact .inl rfl

theorem noteOnEffect_slots_sound {s : State} (h : SlotsSound s.slots) (n : Byte) (vel : Velocity) :
    SlotsSound (noteOnEffect n vel s).slots := by
  obtain ⟨sel, evict, -, hon⟩ := noteOnEffect_form n vel s
  rw [hon]
  refine occupySlot_sound (agedSlots_sound (retriggerSlots_sound h n) s.cfg sel evict) sel fun k => ?_
  obtain ⟨hst, hnote⟩ := agedSlots_st_note s.cfg (retriggerSlots s.slots n) sel evict k
  rw [hst, hnote]
  exact retriggerSlots_silent s.slots n k

/-! ### The register files -/

/-- The invariant's clauses about PV_G and PV_O. -/
structure RegistersFit (c : Config) (pvG : List Byte) (pvO : Vector (List Byte) 4) : Prop where
  generalSize : pvG.length = c.dg.length
  operatorSize : ∀ k : Fin 4, pvO[k].length = c.dop.length

/-- PV_O after a write to one operator's list (R22, R105). -/
theorem State.setParamO_getElem (s : State) (k l : Fin 4) (j : Nat) (v : Byte) :
    (s.setParamO k j v).pvO[l] = if k = l then s.pvO[k].set j v else s.pvO[l] := by
  rw [State.setParamO_pvO, Fin.getElem_fin, Vector.getElem_set]
  simp only [Fin.val_inj]
  rfl

theorem RegistersFit.setParamG {s : State} (h : RegistersFit s.cfg s.pvG s.pvO) (i : Nat) (v : Byte) :
    RegistersFit s.cfg (s.setParamG i v).pvG s.pvO where
  generalSize := (s.setParamG_length i v).trans h.generalSize
  operatorSize := h.operatorSize

theorem RegistersFit.setParamO {s : State} (h : RegistersFit s.cfg s.pvG s.pvO) (k : Fin 4) (j : Nat) (v : Byte) :
    RegistersFit s.cfg s.pvG (s.setParamO k j v).pvO where
  generalSize := h.generalSize
  operatorSize l := by
    rw [State.setParamO_getElem]
    split
    · rw [List.length_set]; exact h.operatorSize k
    · exact h.operatorSize l

theorem registersFit_reset {c : Config} (h : c.wellFormed = true) : RegistersFit c c.paramInitG c.paramInitO := by
  obtain ⟨hgeneral, hoperator⟩ := (paramInitFits_iff c).mp (paramInitFits_of_wellFormed h)
  exact ⟨hgeneral, hoperator⟩

/-! ### FCODE -/

/-- The invariant's clauses about FAULT and FCODE (R29, R210). -/
structure FcodeAgrees (st : Status) : Prop where
  noFaultCode : st.fault = false → st.fcode = 0
  faultCode : st.fault = true → 1 ≤ st.fcode.toNat ∧ st.fcode.toNat ≤ 6

theorem FaultCode.fcode_range (c : FaultCode) : 1 ≤ c.fcode.toNat ∧ c.fcode.toNat ≤ 6 := by
  cases c <;> decide

theorem fcodeAgrees_withFault (c : FaultCode) (st : Status) : FcodeAgrees (st.withFault c) where
  noFaultCode h := by cases h
  faultCode _ := c.fcode_range

theorem fcodeAgrees_clear : FcodeAgrees Status.clear := ⟨fun _ => rfl, fun h => by cases h⟩

/-! ### The output history -/

/-- The invariant's clauses about HIST. -/
structure HistorySound (c : Config) (initDone : Bool) (hist : List BusEvent) : Prop where
  emittedAfterSetup : hist ≠ [] → initDone = true
  grouped : GroupedHistory c hist

theorem HistorySound.plain {c : Config} {initDone : Bool} {hist evs : List BusEvent}
    (h : HistorySound c initDone hist) (hevs : ∀ bs, BusEvent.burst bs ∉ evs) : HistorySound c true (hist ++ evs) :=
  ⟨fun _ => rfl, .plain hist evs h.grouped hevs⟩

theorem HistorySound.group {c : Config} {initDone : Bool} {hist : List BusEvent} {bs : List Byte}
    (h : HistorySound c initDone hist) (hbs : BurstPayload c bs) :
    HistorySound c true (hist ++ burstGroup c bs) :=
  ⟨fun _ => rfl, .group hist bs h.grouped hbs⟩

theorem historySound_nil (c : Config) (initDone : Bool) : HistorySound c initDone [] :=
  ⟨fun h => absurd rfl h, .nil⟩

theorem hardwareNoteOff_no_burst (c : Config) (k : SlotIx) (bs : List Byte) :
    BusEvent.burst bs ∉ hardwareNoteOff c k :=
  noteEventWrites_no_burst c _ _ _ _ bs

/-- The program of SETUP holds no Burst (R133). -/
theorem initProgram_no_burst (evs : List SetupEvent) (bs : List Byte) : BusEvent.burst bs ∉ evs.map setupEvent := by
  intro h
  obtain ⟨ev, -, hev⟩ := List.mem_map.mp h
  cases ev <;> cases hev

theorem noteOffEffect_hist_sound {s : State} (h : HistorySound s.cfg true s.hist) (n : Byte) :
    HistorySound s.cfg true (noteOffEffect n s).hist := by
  obtain ⟨-, hoff⟩ | ⟨k, -, -, hoff⟩ := noteOffEffect_cases n s
  · rwa [hoff]
  · rw [hoff]
    exact h.plain (hardwareNoteOff_no_burst s.cfg k)

theorem noteOnEffect_hist_sound {s : State} (h : HistorySound s.cfg true s.hist) (n : Byte) (vel : Velocity) :
    HistorySound s.cfg true (noteOnEffect n vel s).hist := by
  obtain ⟨sel, evict, -, hon⟩ := noteOnEffect_form n vel s
  rw [hon]
  refine ((h.plain fun bs => ?retrigger).plain fun bs => ?evict).plain fun bs => ?on
  case retrigger => simp [retriggerNoteOffs, hardwareNoteOff_no_burst]
  case evict => rw [evictionNoteOff_eq]; split <;> simp
  case on => exact noteEventWrites_no_burst _ _ _ _ _ bs

/-! ### The invariant, part by part -/

theorem State.inv_iff (s : State) :
    s.Inv ↔ s.cfg.wellFormed = true ∧ RegistersFit s.cfg s.pvG s.pvO ∧ SlotsSound s.slots ∧ FcodeAgrees s.status ∧
      HistorySound s.cfg s.status.initDone s.hist := by
  constructor
  · intro h
    exact ⟨h.admitted, ⟨h.generalSize, h.operatorSize⟩, ⟨h.ageNonneg, h.oneActivePerNote, h.freeIsBlank⟩,
      ⟨h.noFaultCode, h.faultCode⟩, ⟨h.emittedAfterSetup, h.grouped⟩⟩
  · rintro ⟨hw, hregs, hslots, hcode, hhist⟩
    exact ⟨hw, hregs.generalSize, hregs.operatorSize, hslots.ageNonneg, hslots.oneActivePerNote, hslots.freeIsBlank,
      hcode.noFaultCode, hcode.faultCode, hhist.emittedAfterSetup, hhist.grouped⟩

theorem resetWith_inv {c : Config} (h : c.wellFormed = true) : (State.resetWith c).Inv :=
  (State.inv_iff _).mpr ⟨h, registersFit_reset h, slotsSound_blank, fcodeAgrees_clear, historySound_nil c _⟩

/-- The invariant looks neither at the words at the port nor at the reset input. -/
theorem State.Inv.setPort {s : State} (h : s.Inv) (ws : List Word) : (s.setPort ws).Inv :=
  (State.inv_iff _).mpr ((State.inv_iff s).mp h)

theorem takeReset_inv {s : State} (h : s.Inv) : s.takeReset.Inv := (resetWith_inv h.admitted).setPort s.port

theorem State.Inv.withFault {s : State} (h : s.Inv) (c : FaultCode) :
    State.Inv { s with status := s.status.withFault c } := by
  obtain ⟨hw, hregs, hslots, -, hhist⟩ := (State.inv_iff s).mp h
  exact (State.inv_iff _).mpr ⟨hw, hregs, hslots, fcodeAgrees_withFault c s.status, hhist⟩

theorem State.Inv.raiseFault {s : State} (h : s.Inv) (c : FaultCode) : (s.raiseFault c).Inv := by
  unfold State.raiseFault
  split
  · exact h
  · exact h.withFault c

theorem commandBody_registers {i : Instr} {s t : State} (hs : RegistersFit s.cfg s.pvG s.pvO)
    (hb : commandBody i s = .ok t) : RegistersFit s.cfg t.pvG t.pvO := by
  have hkept := commandBody_writes hb
  cases i with
  | pwrg idx val => obtain ⟨-, rfl⟩ := pwrgBody_ok hb; exact hs.setParamG _ val
  | pwro idx opi val => obtain ⟨-, rfl⟩ := pwroBody_ok hb; exact hs.setParamO _ _ val
  | setup | encframe | sendframe | noteon _ _ | noteoff _ | noteev _ _ _ _ | coefenc _ | eqwr _ _ _ _ _ _ =>
    rw [hkept.pvG (by simp [Instr.opcode]), hkept.pvO (by simp [Instr.opcode])]
    exact hs

theorem commandBody_slots {i : Instr} {s t : State} (hs : SlotsSound s.slots) (hb : commandBody i s = .ok t) :
    SlotsSound t.slots := by
  have hkept := commandBody_writes hb
  cases i with
  | noteon note vel =>
    obtain ⟨-, ⟨-, ht⟩ | ⟨-, ht⟩⟩ := noteonBody_ok hb
    · rw [ht]; exact noteOffEffect_slots_sound hs note
    · rw [ht]; exact noteOnEffect_slots_sound hs note vel
  | noteoff note =>
    obtain ⟨-, ht⟩ := noteoffBody_ok hb
    rw [ht]
    exact noteOffEffect_slots_sound hs note
  | setup | pwrg _ _ | pwro _ _ _ | encframe | sendframe | noteev _ _ _ _ | coefenc _ | eqwr _ _ _ _ _ _ =>
    rw [hkept.slots (by simp [Instr.opcode]) (by simp [Instr.opcode])]
    exact hs

theorem commandBody_history {i : Instr} {s t : State} (hs : HistorySound s.cfg s.status.initDone s.hist)
    (hb : commandBody i s = .ok t) : HistorySound s.cfg t.status.initDone t.hist := by
  have hkept := commandBody_writes hb
  cases i with
  | setup =>
    obtain rfl := setupBody_ok hb
    exact hs.plain (initProgram_no_burst s.cfg.initProgram)
  | pwrg _ _ | pwro _ _ _ | encframe | coefenc _ =>
    rw [hkept.initDone (by simp [Instr.opcode]), hkept.hist rfl (by simp [Instr.opcode])]
    exact hs
  | sendframe =>
    obtain ⟨hinit, rfl⟩ := sendframeBody_ok hb
    rw [hkept.initDone (by simp [Instr.opcode]), hinit]
    exact hs.group (.inl ⟨s.voiceFrame, rfl⟩)
  | noteon note vel =>
    obtain ⟨hinit, ⟨-, ht⟩ | ⟨-, ht⟩⟩ := noteonBody_ok hb
    all_goals
      rw [hkept.initDone (by simp [Instr.opcode]), hinit, ht]
      rw [hinit] at hs
    · exact noteOffEffect_hist_sound hs note
    · exact noteOnEffect_hist_sound hs note vel
  | noteoff note =>
    obtain ⟨hinit, ht⟩ := noteoffBody_ok hb
    rw [hkept.initDone (by simp [Instr.opcode]), hinit, ht]
    rw [hinit] at hs
    exact noteOffEffect_hist_sound hs note
  | noteev v hi lo vel =>
    obtain ⟨hinit, rfl⟩ := noteevBody_ok hb
    rw [hkept.initDone (by simp [Instr.opcode]), hinit]
    exact hs.plain (noteEventWrites_no_burst s.cfg v hi lo vel)
  | eqwr unit b0 b1 b2 a1 a2 =>
    obtain ⟨hunit, hinit, r0, r1, r2, r3, r4, -, -, -, -, -, rfl⟩ := eqwrBody_ok hb
    rw [hkept.initDone (by simp [Instr.opcode]), hinit]
    exact hs.group (.inr ⟨unit, hunit, r0.1, r1.1, r2.1, r3.1, r4.1, rfl⟩)

/-- A command that completes keeps the state sound, each part of the invariant for itself. -/
theorem commandBody_inv {i : Instr} {s t : State} (hs : s.Inv) (hb : commandBody i s = .ok t) : t.Inv := by
  obtain ⟨hw, hregs, hslots, hcode, hhist⟩ := (State.inv_iff s).mp hs
  have hcode' : FcodeAgrees t.status := by
    obtain ⟨_, _, hst⟩ := commandBody_ok_status hb
    rw [hst]
    exact ⟨hcode.noFaultCode, hcode.faultCode⟩
  rw [State.inv_iff, (commandBody_writes hb).cfg]
  exact ⟨hw, commandBody_registers hregs hb, commandBody_slots hslots hb, hcode', commandBody_history hhist hb⟩

theorem exec_inv {i : Instr} {s t : State} (hs : s.Inv) (h : exec i s = .next t) : t.Inv := by
  obtain ⟨-, rfl⟩ | ⟨-, hb⟩ | ⟨-, c, -, rfl⟩ := exec_cases h
  · exact hs
  · exact commandBody_inv hs hb
  · exact hs.withFault c

theorem step_inv {s t : State} (hs : s.Inv) (h : step s = .next t) : t.Inv := by
  obtain ⟨-, ⟨-, rfl⟩ | ⟨-, ⟨i, rest, -, he⟩ | ⟨why, rest, -, rfl⟩ | ⟨-, rfl⟩⟩⟩ := step_cases h
  · exact takeReset_inv hs
  · exact exec_inv (hs.setPort rest) he
  · exact (hs.setPort rest).raiseFault _
  · exact hs

/-- Settles O13. -/
theorem resetStateIsSound : Obligations.ResetStateIsSound := fun _ hw => resetWith_inv hw

/-- Settles O14. -/
theorem everyStepKeepsTheStateSound : Obligations.EveryStepKeepsTheStateSound := fun _ _ hs h => step_inv hs h

end Sys2Proof.Machine
end

section
/-! SUPPORT. The voice allocator (43_voice_allocator.md): one NOTEOFF, one NOTEON, and the obligations O35, O37, O38 and
O39. -/

namespace Sys2Proof.Machine

/-! ### NOTEOFF (R160) -/

theorem exec_noteoff {s : State} (hf : s.status.fault = false) (hinit : s.status.initDone = true) (note : Byte) :
    exec (.noteoff note) s = .next (noteOffEffect note s) :=
  exec_of_ok hf (noteoffBody_open hinit)

theorem noteOffEffect_of_silent {s : State} {n : Byte} (h : ∀ k : SlotIx, ¬ s.slots[k].sounds n = true) :
    noteOffEffect n s = s := by
  obtain ⟨-, hoff⟩ | ⟨k, hk, -, -⟩ := noteOffEffect_cases n s
  · exact hoff
  · exact absurd hk (h k)

theorem noteOffEffect_of_lowest {s : State} {n : Byte} {k : SlotIx} (hk : s.slots[k].sounds n = true)
    (hlow : ∀ j : SlotIx, j < k → ¬ s.slots[j].sounds n = true) :
    noteOffEffect n s = (s.emitAll (hardwareNoteOff s.cfg k)).setSlot k (Slot.released n) := by
  obtain ⟨hnone, -⟩ | ⟨j, hj, hjlow, hoff⟩ := noteOffEffect_cases n s
  · exact absurd hk (Bool.eq_false_iff.mp (hnone k))
  · have hle : j ≤ k := not_lt.mp fun hlt => Bool.eq_false_iff.mp (hjlow k hlt) hk
    have hge : k ≤ j := not_lt.mp fun hlt => hlow j hlt hj
    rw [le_antisymm hge hle, hoff]

/-- Settles O35. -/
theorem noteoffReleasesTheLowestSoundingSlot : Obligations.NoteoffReleasesTheLowestSoundingSlot := by
  intro s note hf hinit
  simp only [← Slot.sounds_iff]
  refine ⟨fun hsilent => ?silent, fun k hst hnote hlow => ?released⟩
  case silent => rw [exec_noteoff hf hinit, noteOffEffect_of_silent hsilent]
  case released =>
    rw [exec_noteoff hf hinit, noteOffEffect_of_lowest ((Slot.sounds_iff _ _).mpr ⟨hst, hnote⟩) hlow,
      hardwareNoteOff_eq]
    rfl

/-! ### NOTEON with nonzero velocity (R153 to R159) -/

theorem exec_noteon {s : State} (hf : s.status.fault = false) (hinit : s.status.initDone = true) (note : Byte)
    {vel : Velocity} (hvel : vel ≠ 0#7) : exec (.noteon note vel) s = .next (noteOnEffect note vel s) := by
  have hb : noteonBody note vel s = .ok (noteOnEffect note vel s) := by rw [noteonBody_open hinit, if_neg hvel]
  exact exec_of_ok hf hb

/-- The slots after the aging step, slot by slot (R156). -/
theorem agedSlots_getElem (c : Config) (slots : Vector Slot 16) (evict : Bool) {sel k : SlotIx} (hk : k ≠ sel) :
    (agedSlots c slots sel evict)[k] =
      if (c.ageAllOnAlloc = true ∨ evict = true) ∧ slots[k].st ≠ .free then
        { slots[k] with age := satInc slots[k].age }
      else slots[k] := by
  unfold agedSlots
  split
  next h =>
    rw [ageOthers_getElem]
    exact if_congr (and_congr_left' (iff_of_true hk ((Bool.or_eq_true _ _).mp h))) rfl rfl
  next h => exact (if_neg fun hage => h ((Bool.or_eq_true _ _).mpr hage.1)).symm

theorem voiceOfSlot_setWidth (k : SlotIx) : (voiceOfSlot k).setWidth 8 = BitVec.ofNat 8 k.val := by
  revert k; decide

/-- The note-on writes of a slot, with the pitch bytes of entry `note mod 127` (R130, R151, R158). -/
theorem noteOnWrites_eq (c : Config) (sel : SlotIx) (note : Byte) {vel : Velocity} (hvel : vel ≠ 0#7) :
    noteOnWrites c sel note vel =
      [ .write c.regVsel (BitVec.ofNat 8 sel.val), .write c.regVel (vel.setWidth 8 &&& 0x7E),
        .write c.regPhi (c.pitchHi[note.toNat % 127]'(by omega)),
        .write c.regPlo (c.pitchLo[note.toNat % 127]'(by omega)),
        .write 0x0F (0x40 ||| BitVec.ofNat 8 sel.val) ] := by
  rw [noteOnWrites, noteEventWrites_on c _ _ _ hvel, voiceOfSlot_setWidth]
  rfl

theorem soundingSlots_eq_filter (slots : Vector Slot 16) (note : Byte) :
    soundingSlots slots note =
      (List.finRange 16).filter fun k => decide (slots[k].st = .active ∧ slots[k].note = note) := by
  simp only [← Slot.sounds_iff, Bool.decide_eq_true]
  rfl

/-- What a NOTEON's two note-off steps put on the bus (R153, R157). -/
def noteOnOffs (s : State) (note : Byte) (sel : SlotIx) : List BusEvent :=
  (soundingSlots s.slots note).map (fun k => BusEvent.write 0x0F (BitVec.ofNat 8 k.val)) ++
    if (retriggerSlots s.slots note)[sel].st = .active then [BusEvent.write 0x0F (BitVec.ofNat 8 sel.val)] else []

/-- Everything a note-on does, its note-offs as bus events; the aging step does not touch the selected slot. -/
theorem noteOnEffect_eq {s : State} {note : Byte} {sel : SlotIx} {evict : Bool} (vel : Velocity)
    (hsel : selectSlot (retriggerSlots s.slots note) = (sel, evict)) :
    noteOnEffect note vel s =
      { s with
        slots := occupySlot (agedSlots s.cfg (retriggerSlots s.slots note) sel evict) sel note
        lastVoice := voiceOfSlot sel
        hist := s.hist ++ noteOnOffs s note sel ++ noteOnWrites s.cfg sel note vel } := by
  obtain ⟨sel', evict', hsel', hon⟩ := noteOnEffect_form note vel s
  cases hsel.symm.trans hsel'
  rw [hon, retriggerNoteOffs_eq, evictionNoteOff_eq, agedSlots_sel, noteOnOffs, List.append_assoc s.hist]
  rfl

/-- A slot selected as Free is the lowest Free one; one selected by age is the lowest of greatest age, no slot being
Free (R154, R155). -/
theorem selectSlot_spec {slots : Vector Slot 16} {sel : SlotIx} {evict : Bool} (h : selectSlot slots = (sel, evict)) :
    (evict = false → slots[sel].st = .free ∧ ∀ k : SlotIx, k < sel → slots[k].st ≠ .free) ∧
      (evict = true → (∀ k : SlotIx, slots[k].st ≠ .free) ∧
        (∀ k : SlotIx, slots[k].age.toInt ≤ slots[sel].age.toInt) ∧
        ∀ k : SlotIx, k < sel → slots[k].age.toInt < slots[sel].age.toInt) := by
  obtain ⟨k, hk, hfree⟩ | ⟨hk, hnone⟩ := selectSlot_cases slots
  all_goals
    rw [hk] at h
    obtain ⟨hsel, hevict⟩ := Prod.mk.inj h
    rw [← hsel, ← hevict]
  · exact ⟨fun _ => hfree, nofun⟩
  · exact ⟨nofun, fun _ => ⟨hnone, oldestSlot_spec slots⟩⟩

/-- Settles O37: retrigger, selection, aging and the events, each by the lemma of its step. -/
theorem noteonAllocatesAVoice : Obligations.NoteonAllocatesAVoice := by
  intro s note vel hf hinit hvel
  obtain ⟨sel, evict, hsel, -⟩ := noteOnEffect_form note vel s
  have hslots (k : SlotIx) : (noteOnEffect note vel s).slots[k] =
      if k = sel then Slot.occupied note
      else (agedSlots s.cfg (retriggerSlots s.slots note) sel evict)[k] := by
    rw [noteOnEffect_eq vel hsel, ← occupySlot_getElem]
  refine ⟨noteOnEffect note vel s, retriggerSlots s.slots note, sel, evict, exec_noteon hf hinit note hvel,
    fun k => ?retrigger, (selectSlot_spec hsel).1, (selectSlot_spec hsel).2, ?occupied, fun k hk => ?aged, ?whole⟩
  case retrigger =>
    rw [retriggerSlots_getElem]
    simp only [Slot.sounds_iff]
    rfl
  case occupied => rw [hslots, if_pos rfl]; rfl
  case aged => rw [hslots, if_neg hk, agedSlots_getElem _ _ _ hk]; rfl
  case whole =>
    rw [noteOnEffect_eq vel hsel, ← soundingSlots_eq_filter, ← noteOnWrites_eq s.cfg sel note hvel,
      noteOnOffs, ← List.append_assoc s.hist]
    rfl

/-! ### How many events a NOTEON emits (R159, R245) -/

/-- With at most one Active slot per note at most one slot sounds a note. -/
theorem soundingSlots_length_le {slots : Vector Slot 16} (h : OneActivePerNote slots) (note : Byte) :
    (soundingSlots slots note).length ≤ 1 := by
  have hnodup : (soundingSlots slots note).Nodup := (List.nodup_finRange 16).filter _
  match hl : soundingSlots slots note with
  | [] => simp
  | [_] => simp
  | j :: k :: _ =>
    obtain ⟨hj, hjnote⟩ := (Slot.sounds_iff _ _).mp ((mem_soundingSlots slots note j).mp (by simp [hl]))
    obtain ⟨hk, hknote⟩ := (Slot.sounds_iff _ _).mp ((mem_soundingSlots slots note k).mp (by simp [hl]))
    obtain rfl := h j k hj hk (hjnote.trans hknote.symm)
    simp [hl] at hnodup

/-- A NOTEON's note-offs are at most two (R159). -/
theorem noteOnOffs_length_le {s : State} (h : OneActivePerNote s.slots) (note : Byte) (sel : SlotIx) :
    (noteOnOffs s note sel).length ≤ 2 := by
  have hretrigger := soundingSlots_length_le h note
  rw [noteOnOffs, List.length_append, List.length_map]
  split <;> simp <;> omega

theorem noteOnOffs_are_noteOffs {s : State} {note : Byte} {sel : SlotIx} {e : BusEvent}
    (h : e ∈ noteOnOffs s note sel) : ∃ k : SlotIx, e = .write 0x0F (BitVec.ofNat 8 k.val) := by
  obtain hretrigger | hevict := List.mem_append.mp h
  · obtain ⟨k, -, rfl⟩ := List.mem_map.mp hretrigger
    exact ⟨k, rfl⟩
  · split at hevict
    · exact ⟨sel, List.mem_singleton.mp hevict⟩
    · cases hevict

/-- Settles O38: the retrigger step's note-off, the eviction's, and then the five note-on writes. -/
theorem noteonEmitsAtMostSevenEventsStrobeLast : Obligations.NoteonEmitsAtMostSevenEventsStrobeLast := by
  intro s t note vel hone hf hinit hvel h
  obtain ⟨sel, evict, hsel, -⟩ := noteOnEffect_form note vel s
  rw [exec_noteon hf hinit note hvel, noteOnEffect_eq vel hsel] at h
  obtain rfl := Host.Outcome.next.inj h
  refine ⟨noteOnOffs s note sel, ?_, noteOnOffs_length_le hone note sel, fun e => noteOnOffs_are_noteOffs⟩
  simp only [voiceOfSlot_setWidth, ← noteOnWrites_eq s.cfg sel note hvel]

/-! ### The lifecycle of a slot (R150) -/

theorem noteOffEffect_lifecycle (n : Byte) (s : State) (k : SlotIx) :
    ((noteOffEffect n s).slots[k].st = s.slots[k].st ∧ (noteOffEffect n s).slots[k].note = s.slots[k].note) ∨
      (s.slots[k].st = .active ∧ (noteOffEffect n s).slots[k].st = .aging ∧
        (noteOffEffect n s).slots[k].note = s.slots[k].note) := by
  obtain ⟨-, hoff⟩ | ⟨j, hj, -, hoff⟩ := noteOffEffect_cases n s
  · rw [hoff]; exact .inl ⟨rfl, rfl⟩
  · rw [hoff, State.setSlot_getElem]
    split
    next hjk =>
      subst hjk
      obtain ⟨hst, hnote⟩ := (Slot.sounds_iff _ _).mp hj
      exact .inr ⟨hst, rfl, hnote.symm⟩
    next => exact .inl ⟨rfl, rfl⟩

theorem noteOnEffect_lifecycle (n : Byte) (vel : Velocity) (s : State) (k : SlotIx) :
    ((noteOnEffect n vel s).slots[k].st = s.slots[k].st ∧ (noteOnEffect n vel s).slots[k].note = s.slots[k].note) ∨
      (noteOnEffect n vel s).slots[k] = Slot.occupied n ∨
      (s.slots[k].st = .active ∧ (noteOnEffect n vel s).slots[k].st = .aging ∧
        (noteOnEffect n vel s).slots[k].note = s.slots[k].note) := by
  obtain ⟨sel, evict, -, hon⟩ := noteOnEffect_form n vel s
  rw [hon, occupySlot_getElem]
  split
  · exact .inr (.inl rfl)
  · obtain ⟨hst, hnote⟩ := agedSlots_st_note s.cfg (retriggerSlots s.slots n) sel evict k
    rw [hst, hnote, retriggerSlots_getElem]
    split
    next hsounds =>
      obtain ⟨hactive, hn⟩ := (Slot.sounds_iff _ _).mp hsounds
      exact .inr (.inr ⟨hactive, rfl, hn.symm⟩)
    next => exact .inl ⟨rfl, rfl⟩

/-- Settles O39: no other command writes SLOT, and a fault leaves it. -/
theorem slotsMoveOnlyAlongTheLifecycle : Obligations.SlotsMoveOnlyAlongTheLifecycle := by
  intro i s t k h
  have hkept (hon : i.opcode ≠ .noteon) (hoff : i.opcode ≠ .noteoff) :
      t.slots[k].st = s.slots[k].st ∧ t.slots[k].note = s.slots[k].note := by
    rw [(exec_writes h).slots hon hoff]
    exact ⟨rfl, rfl⟩
  obtain ⟨-, rfl⟩ | ⟨-, hb⟩ | ⟨-, c, -, rfl⟩ := exec_cases h
  · exact .inl ⟨rfl, rfl⟩
  · cases i with
    | noteon note vel =>
      obtain ⟨-, ⟨-, ht⟩ | ⟨hvel, ht⟩⟩ := noteonBody_ok hb
      · rw [ht]
        exact (noteOffEffect_lifecycle note s k).imp_right fun hoff => .inr ⟨.inl rfl, hoff⟩
      · rw [ht]
        obtain hsame | hocc | hoff := noteOnEffect_lifecycle note vel s k
        · exact .inl hsame
        · exact .inr (.inl ⟨note, vel, rfl, hvel, hocc⟩)
        · exact .inr (.inr ⟨.inl rfl, hoff⟩)
    | noteoff note =>
      obtain ⟨-, ht⟩ := noteoffBody_ok hb
      rw [ht]
      exact (noteOffEffect_lifecycle note s k).imp_right fun hoff => .inr ⟨.inr rfl, hoff⟩
    | setup | pwrg _ _ | pwro _ _ _ | encframe | sendframe | noteev _ _ _ _ | coefenc _ | eqwr _ _ _ _ _ _ =>
      exact .inl (hkept (by simp [Instr.opcode]) (by simp [Instr.opcode]))
  · exact .inl ⟨rfl, rfl⟩

end Sys2Proof.Machine
end

section
/-! SUPPORT. Sequences of note-ons from all slots Free (43_voice_allocator.md R162, R163), and the obligations O40 and
O41. -/

namespace Sys2Proof.Machine

/-! ### Selection by what the slots hold (R154, R155) -/

theorem selectSlot_of_lowestFree {slots : Vector Slot 16} {k : SlotIx} (hk : slots[k].st = .free)
    (hlow : ∀ j : SlotIx, j < k → slots[j].st ≠ .free) : selectSlot slots = (k, false) := by
  obtain ⟨j, hj, hfree, hjlow⟩ | ⟨-, hnone⟩ := selectSlot_cases slots
  · have hle : j ≤ k := not_lt.mp fun hlt => hjlow k hlt hk
    have hge : k ≤ j := not_lt.mp fun hlt => hlow j hlt hfree
    rw [hj, le_antisymm hle hge]
  · exact absurd hk (hnone k)

theorem selectSlot_of_oldest {slots : Vector Slot 16} {k : SlotIx} (hnone : ∀ j : SlotIx, slots[j].st ≠ .free)
    (hold : ∀ j : SlotIx, j ≠ k → slotAge slots j < slotAge slots k) : selectSlot slots = (k, true) := by
  obtain ⟨j, -, hfree, -⟩ | ⟨hsel, -⟩ := selectSlot_cases slots
  · exact absurd hfree (hnone j)
  · have hk : oldestSlot slots = k := by
      by_contra hne
      exact absurd ((oldestSlot_spec slots).1 k) (not_le.mpr (hold _ hne))
    rw [hsel, hk]

theorem slots_ext {slots slots' : Vector Slot 16} (h : ∀ k : SlotIx, slots[k] = slots'[k]) : slots = slots' :=
  Vector.ext fun k hk => h ⟨k, hk⟩

theorem blankSlots_getElem (k : SlotIx) : (Vector.replicate 16 Slot.blank)[k] = Slot.blank := by
  rw [Fin.getElem_fin, Vector.getElem_replicate]

/-! ### A note no slot sounds -/

theorem retriggerSlots_of_silent {slots : Vector Slot 16} {n : Byte} (h : ∀ k : SlotIx, ¬ slots[k].sounds n = true) :
    retriggerSlots slots n = slots := by
  exact slots_ext fun k => (retriggerSlots_getElem slots n k).trans (if_neg (h k))

theorem soundingSlots_of_silent {slots : Vector Slot 16} {n : Byte} (h : ∀ k : SlotIx, ¬ slots[k].sounds n = true) :
    soundingSlots slots n = [] :=
  List.filter_eq_nil_iff.mpr fun k _ => h k

/-- A note-on of a note no slot sounds: no retrigger step. -/
theorem noteOnEffect_of_silent {s : State} {n : Byte} {sel : SlotIx} {evict : Bool} (vel : Velocity)
    (h : ∀ k : SlotIx, ¬ s.slots[k].sounds n = true) (hsel : selectSlot s.slots = (sel, evict)) :
    noteOnEffect n vel s =
      { s with
        slots := occupySlot (agedSlots s.cfg s.slots sel evict) sel n
        lastVoice := voiceOfSlot sel
        hist := s.hist ++
          (if s.slots[sel].st = .active then [BusEvent.write 0x0F (BitVec.ofNat 8 sel.val)] else []) ++
          noteOnWrites s.cfg sel n vel } := by
  have hsame := retriggerSlots_of_silent h
  have hsel' : selectSlot (retriggerSlots s.slots n) = (sel, evict) := by rwa [hsame]
  rw [noteOnEffect_eq vel hsel', noteOnOffs, hsame, soundingSlots_of_silent h]
  rfl

/-! ### The slots filled in order (R162) -/

/-- Slot `k` after the first `j` notes of a list, for AGE_ALL_ON_ALLOC = true: Active with the list's note and aged by
the notes that came after it, or still Free. -/
def filledSlot (notes : List Byte) (j k : Nat) : Slot :=
  if k < j then { st := .active, note := notes.getD k 0, age := BitVec.ofNat 32 (j - 1 - k) } else Slot.blank

def filledSlots (notes : List Byte) (j : Nat) : Vector Slot 16 := Vector.ofFn fun k => filledSlot notes j k.val

theorem filledSlots_getElem (notes : List Byte) (j : Nat) (k : SlotIx) :
    (filledSlots notes j)[k] = filledSlot notes j k.val := by
  simp [filledSlots]

theorem filledSlot_of_lt {notes : List Byte} {j k : Nat} (h : k < j) :
    filledSlot notes j k = { st := .active, note := notes.getD k 0, age := BitVec.ofNat 32 (j - 1 - k) } :=
  if_pos h

theorem filledSlot_of_ge {notes : List Byte} {j k : Nat} (h : j ≤ k) : filledSlot notes j k = Slot.blank :=
  if_neg (Nat.not_lt.mpr h)

theorem filledSlots_zero (notes : List Byte) : filledSlots notes 0 = Vector.replicate 16 Slot.blank := by
  refine slots_ext fun k => ?_
  rw [blankSlots_getElem, filledSlots_getElem, filledSlot_of_ge (Nat.zero_le _)]

/-- A note that is none of the first `j` sounds in no slot they fill. -/
theorem filledSlots_silent {notes : List Byte} {j : Nat} {n : Byte} (hn : ∀ k, k < j → notes.getD k 0 ≠ n)
    (k : SlotIx) : ¬ (filledSlots notes j)[k].sounds n = true := by
  rw [Slot.sounds_iff, filledSlots_getElem]
  rcases Nat.lt_or_ge k.val j with h | h
  · rw [filledSlot_of_lt h]
    exact fun hsounds => hn k.val h hsounds.2
  · rw [filledSlot_of_ge h]
    exact fun hsounds => by cases hsounds.1

/-- An age that is a small natural number is incremented as such (R26). -/
theorem satInc_ofNat {a : Nat} (h : a < 16) : satInc (BitVec.ofNat 32 a) = BitVec.ofNat 32 (a + 1) := by
  interval_cases a <;> rfl

/-- Aging the filled slots and occupying the next one fills it (R156, R158). -/
theorem occupySlot_filledSlots {c : Config} (hc : c.ageAllOnAlloc = true) {notes : List Byte} {j : Nat} (hj : j < 16) :
    occupySlot (agedSlots c (filledSlots notes j) ⟨j, hj⟩ false) ⟨j, hj⟩ (notes.getD j 0) =
      filledSlots notes (j + 1) := by
  refine slots_ext fun k => ?_
  rw [occupySlot_getElem, filledSlots_getElem]
  rcases Nat.lt_trichotomy k.val j with h | h | h
  · have hne : k ≠ ⟨j, hj⟩ := fun e => Nat.ne_of_lt h (congrArg Fin.val e)
    have hage : j - 1 - k.val + 1 = j + 1 - 1 - k.val := by omega
    rw [if_neg hne, agedSlots_getElem c _ false hne, filledSlots_getElem, filledSlot_of_lt h,
      filledSlot_of_lt (Nat.lt_succ_of_lt h), if_pos ⟨.inl hc, nofun⟩, satInc_ofNat (by omega), hage]
  · subst h
    rw [if_pos rfl, filledSlot_of_lt (Nat.lt_succ_self _)]
    simp [Slot.occupied]
  · have hne : k ≠ ⟨j, hj⟩ := fun e => Nat.ne_of_gt h (congrArg Fin.val e)
    rw [if_neg hne, agedSlots_getElem c _ false hne, filledSlots_getElem, filledSlot_of_ge (Nat.le_of_lt h),
      filledSlot_of_ge h, if_neg fun hage => hage.2 rfl]

/-- The next note takes the next Free slot, with no note-off. -/
theorem noteOnEffect_fills {s : State} {notes : List Byte} {j : Nat} (hj : j < 16) (hc : s.cfg.ageAllOnAlloc = true)
    (hslots : s.slots = filledSlots notes j) (hnew : ∀ k, k < j → notes.getD k 0 ≠ notes.getD j 0) (vel : Velocity) :
    noteOnEffect (notes.getD j 0) vel s =
      { s with
        slots := filledSlots notes (j + 1)
        lastVoice := voiceOfSlot ⟨j, hj⟩
        hist := s.hist ++ noteOnWrites s.cfg ⟨j, hj⟩ (notes.getD j 0) vel } := by
  have hblank : (filledSlots notes j)[(⟨j, hj⟩ : SlotIx)] = Slot.blank :=
    (filledSlots_getElem notes j _).trans (filledSlot_of_ge (Nat.le_refl j))
  have hsel : selectSlot (filledSlots notes j) = (⟨j, hj⟩, false) := by
    refine selectSlot_of_lowestFree (by rw [hblank]; rfl) fun k hk => ?_
    rw [filledSlots_getElem, filledSlot_of_lt (Fin.lt_def.mp hk)]
    exact nofun
  rw [noteOnEffect_of_silent vel (hslots ▸ filledSlots_silent hnew) (hslots ▸ hsel), hslots,
    occupySlot_filledSlots hc hj, hblank, if_neg (by decide), List.append_nil]

/-- The state after the first `j` notes, each a note-on of a slot of its own. -/
structure Filled (s : State) (notes : List Byte) (vels : List Velocity) (j : Nat) (t : State) : Prop where
  cfg : t.cfg = s.cfg
  status : t.status = s.status
  slots : t.slots = filledSlots notes j
  lastVoice : 0 < j → t.lastVoice = BitVec.ofNat 4 (j - 1)
  hist : t.hist = s.hist ++ ((List.finRange 16).take j).flatMap fun k =>
    noteOnWrites s.cfg k (notes.getD k.val 0) (vels.getD k.val 0)

/-- One NOTEON in a sequence, as O40 runs it. -/
def playNote (o : Host.Outcome State Fault Refusal) (nv : Byte × Velocity) : Host.Outcome State Fault Refusal :=
  match o with
  | .next u => exec (.noteon nv.1 nv.2) u
  | other => other

section Sixteen
variable {s : State} {notes : List Byte} {vels : List Velocity} (hc : s.cfg.ageAllOnAlloc = true)
  (hnotes : notes.length = 16)
include hc hnotes

/-- Playing the first `j` of sixteen distinct notes fills the first `j` slots (R162). -/
theorem play_filled (hf : s.status.fault = false) (hinit : s.status.initDone = true)
    (hslots : s.slots = Vector.replicate 16 Slot.blank) (hvels : vels.length = 16) (hsound : ∀ v ∈ vels, v ≠ 0)
    (hnodup : notes.Nodup) {j : Nat} (hj : j ≤ 16) :
    ∃ t, ((notes.zip vels).take j).foldl playNote (.next s) = .next t ∧ Filled s notes vels j t := by
  induction j with
  | zero => exact ⟨s, rfl, rfl, rfl, by rw [hslots, filledSlots_zero], fun h => absurd h (by decide), by simp⟩
  | succ j ih =>
    obtain ⟨t, hplay, hfilled⟩ := ih (by omega)
    have hn : j < notes.length := by omega
    have hv : j < vels.length := by omega
    have hnote : notes.getD j 0 = notes[j] := List.getD_eq_getElem notes 0 hn
    have hvel : vels.getD j 0 = vels[j] := List.getD_eq_getElem vels 0 hv
    have hnew : ∀ k, k < j → notes.getD k 0 ≠ notes.getD j 0 := fun k hk heq => by
      rw [List.getD_eq_getElem notes 0 (by omega), hnote] at heq
      exact absurd ((hnodup.getElem_inj_iff).mp heq) (Nat.ne_of_lt hk)
    have hexec : exec (.noteon notes[j] vels[j]) t = .next (noteOnEffect notes[j] vels[j] t) :=
      exec_noteon (hfilled.status ▸ hf) (hfilled.status ▸ hinit) _ (hsound _ (List.getElem_mem hv))
    have heffect := noteOnEffect_fills (by omega) (hfilled.cfg ▸ hc) hfilled.slots hnew (vels.getD j 0)
    refine ⟨noteOnEffect notes[j] vels[j] t, ?_, ?_⟩
    · rw [List.take_succ_eq_append_getElem (by simp; omega), List.foldl_append, hplay, List.getElem_zip]
      exact hexec
    · rw [← hnote, ← hvel, heffect]
      refine ⟨hfilled.cfg, hfilled.status, rfl, fun _ => rfl, ?_⟩
      rw [List.take_succ_eq_append_getElem (by simp; omega), List.flatMap_append, ← List.append_assoc, ← hfilled.hist,
        List.flatMap_singleton, List.getElem_finRange, hfilled.cfg]
      rfl

/-- With all sixteen slots filled a new note evicts slot 0, the oldest (R162). -/
theorem noteOnEffect_evicts {t : State} (h : Filled s notes vels 16 t) {note : Byte} (hnew : note ∉ notes)
    (vel : Velocity) :
    noteOnEffect note vel t =
      { t with
        slots := occupySlot (ageOthers (filledSlots notes 16) 0) 0 note
        lastVoice := voiceOfSlot 0
        hist := t.hist ++ [.write 0x0F 0] ++ noteOnWrites s.cfg 0 note vel } := by
  have hlt (k : SlotIx) : k.val < 16 := k.isLt
  have hsilent (k : SlotIx) : ¬ t.slots[k].sounds note = true := by
    rw [h.slots]
    refine filledSlots_silent (fun j hj heq => hnew ?_) k
    rw [← heq, List.getD_eq_getElem notes 0 (by omega)]
    exact List.getElem_mem _
  have hage (k : SlotIx) : slotAge (filledSlots notes 16) k = 15 - k.val := by
    have hnat : ∀ k : SlotIx, (BitVec.ofNat 32 (16 - 1 - k.val)).toInt = 15 - k.val := by decide
    rw [slotAge, filledSlots_getElem, filledSlot_of_lt (hlt k), hnat]
  have hsel : selectSlot t.slots = (0, true) := by
    rw [h.slots]
    refine selectSlot_of_oldest (fun k => ?_) fun k hk => ?_
    · rw [filledSlots_getElem, filledSlot_of_lt (hlt k)]
      exact nofun
    · have hpos : 0 < k.val := Fin.pos_iff_ne_zero.mpr hk
      rw [hage, hage]
      simp
      omega
  have hactive : t.slots[(0 : SlotIx)].st = .active := by
    rw [h.slots, filledSlots_getElem, filledSlot_of_lt (hlt 0)]
  rw [noteOnEffect_of_silent vel hsilent hsel, if_pos hactive, h.slots, h.cfg, agedSlots, hc]
  rfl

end Sixteen

/-- Settles O40: the sixteen notes by induction on how many were played, the seventeenth by the ages they leave. -/
theorem sixteenNotesFillTheSlotsAndTheNextEvictsSlotZero :
    Obligations.SixteenNotesFillTheSlotsAndTheNextEvictsSlotZero := by
  intro s notes vels note vel hf hinit hc hslots hnotes hvels hsound hnodup hnew hvel play
  obtain ⟨t, hplay, hfilled⟩ := play_filled hc hnotes hf hinit hslots hvels hsound hnodup (Nat.le_refl 16)
  have hevicts := noteOnEffect_evicts hc hnotes hfilled hnew vel
  have hlt (k : SlotIx) : k.val < 16 := k.isLt
  refine ⟨t, noteOnEffect note vel t, ?played, exec_noteon (hfilled.status ▸ hf) (hfilled.status ▸ hinit) note hvel,
    fun k => ?filled, hfilled.lastVoice (by decide), ?events, ?first, fun k hk => ?others, ?voice, ?eviction⟩
  case played =>
    rw [List.take_of_length_le (by simp [hnotes, hvels])] at hplay
    exact hplay
  case filled => rw [hfilled.slots, filledSlots_getElem, filledSlot_of_lt (hlt k)]
  case events => rw [hfilled.hist, List.take_of_length_le (by simp)]
  case first =>
    rw [hevicts]
    exact (occupySlot_getElem _ 0 0 note).trans (if_pos rfl)
  case others =>
    have hage : 16 - 1 - k.val + 1 = 16 - k.val := by omega
    rw [hevicts, occupySlot_getElem, if_neg hk, ageOthers_getElem, filledSlots_getElem, filledSlot_of_lt (hlt k),
      if_pos ⟨hk, nofun⟩, satInc_ofNat (by omega), hage]
  case voice => rw [hevicts]; rfl
  case eviction => rw [hevicts]

/-! ### One note struck twice (R163) -/

/-- The slots after one note-on from all slots Free. -/
def struckSlots (n : Byte) : Vector Slot 16 := occupySlot (Vector.replicate 16 Slot.blank) 0 n

theorem struckSlots_getElem (n : Byte) (k : SlotIx) :
    (struckSlots n)[k] = if k = 0 then Slot.occupied n else Slot.blank := by
  rw [struckSlots, occupySlot_getElem, blankSlots_getElem]

theorem agedSlots_blank (c : Config) (sel : SlotIx) :
    agedSlots c (Vector.replicate 16 Slot.blank) sel false = Vector.replicate 16 Slot.blank := by
  refine slots_ext fun k => ?_
  by_cases hsel : k = sel
  · rw [hsel, agedSlots_sel]
  · rw [agedSlots_getElem c _ false hsel, blankSlots_getElem, if_neg fun h => h.2 rfl]

/-- The first strike takes slot 0. -/
theorem noteOnEffect_blank {s : State} (hslots : s.slots = Vector.replicate 16 Slot.blank) (n : Byte) (vel : Velocity) :
    noteOnEffect n vel s =
      { s with
        slots := struckSlots n
        lastVoice := voiceOfSlot 0
        hist := s.hist ++ noteOnWrites s.cfg 0 n vel } := by
  have hblank (k : SlotIx) : s.slots[k] = Slot.blank := by rw [hslots, blankSlots_getElem]
  have hsel : selectSlot s.slots = (0, false) :=
    selectSlot_of_lowestFree (by rw [hblank]; rfl) fun k hk => absurd hk (Fin.not_lt_zero k)
  have hsilent (k : SlotIx) : ¬ s.slots[k].sounds n = true := by
    rw [hblank]
    exact nofun
  rw [noteOnEffect_of_silent vel hsilent hsel, hblank, if_neg (by decide), List.append_nil, hslots, agedSlots_blank]
  rfl

theorem retriggerSlots_struckSlots (n : Byte) (k : SlotIx) :
    (retriggerSlots (struckSlots n) n)[k] = if k = 0 then Slot.released n else Slot.blank := by
  rw [retriggerSlots_getElem, struckSlots_getElem]
  by_cases hk : k = 0
  · rw [if_pos hk, if_pos hk, if_pos ((Slot.sounds_iff n (Slot.occupied n)).mpr ⟨rfl, rfl⟩)]
  · rw [if_neg hk, if_neg hk, if_neg nofun]

theorem soundingSlots_struckSlots (n : Byte) : soundingSlots (struckSlots n) n = [0] := by
  have hsounds (k : SlotIx) : (struckSlots n)[k].sounds n = decide (k = 0) := by
    rw [struckSlots_getElem, Bool.eq_iff_iff, Slot.sounds_iff, decide_eq_true_iff]
    by_cases hk : k = 0
    · simp [hk, Slot.occupied]
    · simp [hk, Slot.blank]
  rw [soundingSlots, funext hsounds]
  decide

/-- Settles O41: the first strike takes slot 0, the second releases it and takes slot 1. -/
theorem strikingANoteTwiceSilencesItOnce : Obligations.StrikingANoteTwiceSilencesItOnce := by
  intro s note v1 v2 hf hinit hslots hv1 hv2
  have hfirst := noteOnEffect_blank hslots note v1
  refine ⟨noteOnEffect note v1 s, noteOnEffect note v2 (noteOnEffect note v1 s), exec_noteon hf hinit note hv1,
    exec_noteon (by rwa [noteOnEffect_status]) (by rwa [noteOnEffect_status]) note hv2, by rw [hfirst], ?_⟩
  have hstruck : (noteOnEffect note v1 s).slots = struckSlots note := by rw [hfirst]
  have hcfg : (noteOnEffect note v1 s).cfg = s.cfg := by rw [hfirst]
  generalize noteOnEffect note v1 s = t at hstruck hcfg
  have hsel : selectSlot (retriggerSlots t.slots note) = (1, false) := by
    rw [hstruck]
    refine selectSlot_of_lowestFree (by rw [retriggerSlots_struckSlots]; rfl) fun k hk => ?_
    obtain rfl : k = 0 := Fin.ext (Nat.lt_one_iff.mp (Fin.lt_def.mp hk))
    rw [retriggerSlots_struckSlots]
    exact nofun
  have hslot (k : SlotIx) : (noteOnEffect note v2 t).slots[k] =
      if k = 1 then Slot.occupied note else (agedSlots t.cfg (retriggerSlots t.slots note) 1 false)[k] := by
    rw [noteOnEffect_eq v2 hsel, ← occupySlot_getElem]
  refine ⟨?events, ?slot0, ?slot1, ?voice⟩
  case events =>
    rw [noteOnEffect_eq v2 hsel, noteOnOffs, hstruck, soundingSlots_struckSlots, retriggerSlots_struckSlots, hcfg]
    rfl
  case slot0 =>
    rw [hslot, if_neg (by decide), (agedSlots_st_note t.cfg _ 1 false 0).1, hstruck, retriggerSlots_struckSlots]
    rfl
  case slot1 => rw [hslot, if_pos rfl]; rfl
  case voice => rw [noteOnEffect_eq v2 hsel]; rfl

end Sys2Proof.Machine
end

section
/-! SUPPORT. The effect of the commands that write no slot (41_frame_packer.md, 42_note_event_setup.md,
44_coeff_codec.md section 2), STATUS as a word (R29), the bytes of bus events (R52, R53), and the obligations O26, O27,
O28, O29, O33, O34, O49, O50, O51 and O53. -/

namespace Sys2Proof.Machine

/-! ### PWRG, PWRO (R104, R105) -/

/-- Reading another PV_G register after a write, inside the register file or beyond it (R21). -/
theorem State.paramG_setParamG_ne (s : State) {i j : Nat} (v : Byte) (h : i ≠ j) :
    (s.setParamG i v).paramG j = s.paramG j := by
  simp [State.paramG, List.getD_eq_getElem?_getD, List.getElem?_set_ne h]

/-- Settles O26. -/
theorem pwrgWritesOneGeneralParameter : Obligations.PwrgWritesOneGeneralParameter := by
  intro s idx val hf hidx
  refine ⟨s.setParamG idx.toNat val, exec_of_ok hf (if_pos hidx), rfl, s.setParamG_length _ val, fun hsize => ?written,
    fun i hi => s.paramG_setParamG_ne val hi.symm⟩
  case written => rw [s.paramG_setParamG _ _ val (hsize ▸ hidx), if_pos rfl]

/-- Reading PV_O after a write (R22). -/
theorem State.paramO_setParamO (s : State) (k : Fin 4) {i : Nat} (v : Byte) (h : i < s.pvO[k].length) :
    (s.setParamO k i v).paramO k i = v := by
  rw [State.paramO, State.setParamO_getElem, if_pos rfl, List.getD_eq_getElem?_getD, List.getElem?_set_self h,
    Option.getD_some]

/-- Reading another PV_O register after a write, inside the register files or beyond them (R22). -/
theorem State.paramO_setParamO_ne (s : State) {k l : Fin 4} {i j : Nat} (v : Byte) (h : k ≠ l ∨ i ≠ j) :
    (s.setParamO k i v).paramO l j = s.paramO l j := by
  rw [State.paramO, State.paramO, State.setParamO_getElem]
  split
  next hkl =>
    subst hkl
    rw [List.getD_eq_getElem?_getD, List.getElem?_set_ne (h.resolve_left (· rfl)), ← List.getD_eq_getElem?_getD]
  next => rfl

/-- Settles O27. -/
theorem pwroWritesOneOperatorParameter : Obligations.PwroWritesOneOperatorParameter := by
  intro s idx opi val hf hidx
  refine ⟨s.setParamO opi.toFin idx.toNat val, exec_of_ok hf (if_pos hidx), rfl, fun k => ?length,
    fun hsize => ?written, fun k j hkj => s.paramO_setParamO_ne val ?others⟩
  case length =>
    rw [State.setParamO_getElem]
    split
    next h => rw [List.length_set, h]
    next => rfl
  case written => exact s.paramO_setParamO _ val (hsize opi.toFin ▸ hidx)
  case others => exact hkj.imp (fun hk e => hk (congrArg Fin.val e).symm) (fun hj e => hj e.symm)

/-! ### ENCFRAME, SENDFRAME, SETUP, NOTEEV (R108, R110, R131, R132) -/

/-- Settles O28. -/
theorem encframeStoresTheEncodedFrame : Obligations.EncframeStoresTheEncodedFrame :=
  fun _ hf => exec_of_ok hf rfl

/-- Settles O29. -/
theorem sendframeEmitsOneBurstGroup : Obligations.SendframeEmitsOneBurstGroup :=
  fun _ hf hinit => exec_of_ok hf (sendframeBody_open hinit)

/-- Settles O33. -/
theorem setupEmitsTheProgramAndSetsInitDone : Obligations.SetupEmitsTheProgramAndSetsInitDone := by
  intro s hf
  have hmap : setupEvent = fun ev : SetupEvent => match ev with
      | .write a d => BusEvent.write a d
      | .resetPulse => BusEvent.resetPulse
      | .delay t => BusEvent.delay t := by
    funext ev
    cases ev <;> rfl
  rw [exec_of_ok (i := .setup) hf rfl, State.emitAll, hmap]
  rfl

/-- Settles O34. -/
theorem noteevEmitsItsWritesInOrder : Obligations.NoteevEmitsItsWritesInOrder :=
  fun _ _ _ _ _ hf hinit => exec_of_ok hf (noteevBody_open hinit)

/-! ### COEFENC, EQWR (R189, R191) -/

theorem coeffEncode_answers {x : Binary64} (h : x.extractLsb' 52 11 ≠ 0x7FF) :
    ∃ c inexact, coeffEncode x = .ok (c, inexact) :=
  ⟨_, _, coeffEncode_of_finite (mt (b64NonFinite_iff x).mp h)⟩

/-- Settles O49. -/
theorem coefencStoresTheCode : Obligations.CoefencStoresTheCode := by
  intro s x hf
  refine ⟨fun hx => ?finite, fun hx => ?nonFinite⟩
  case finite =>
    obtain ⟨c, inexact, hcode⟩ := coeffEncode_answers hx
    exact ⟨c, inexact, hcode, exec_of_ok hf (coefencBody_of_ok hcode)⟩
  case nonFinite => exact exec_of_error (i := .coefenc x) hf (coefencBody_nonFinite ((b64NonFinite_iff x).mpr hx))

/-- The equalizer frame, its address and its codes' bytes (R188, R190). -/
theorem eqFrame_eq (u : BitVec 2) (c0 c1 c2 c3 c4 : Code) :
    eqFrame u c0 c1 c2 c3 c4 =
      BitVec.ofNat 8 (32 + u.toNat) :: [c0, c1, c2, c3, c4].flatMap fun c =>
        [c.extractLsb' 16 8, c.extractLsb' 8 8, c.extractLsb' 0 8] := by
  have haddr : Config.eqAddr + u.setWidth 8 = BitVec.ofNat 8 (32 + u.toNat) := by
    revert u; decide
  rw [eqFrame, haddr]
  rfl

/-- Settles O50. -/
theorem eqwrEmitsOneEqualizerBurst : Obligations.EqwrEmitsOneEqualizerBurst := by
  intro s unit b0 b1 b2 a1 a2 hf hinit hunit hfinite
  simp only [List.forall_mem_cons] at hfinite
  obtain ⟨hb0, hb1, hb2, ha1, ha2, -⟩ := hfinite
  obtain ⟨c0, i0, h0⟩ := coeffEncode_answers hb0
  obtain ⟨c1, i1, h1⟩ := coeffEncode_answers hb1
  obtain ⟨c2, i2, h2⟩ := coeffEncode_answers hb2
  obtain ⟨c3, i3, h3⟩ := coeffEncode_answers ha1
  obtain ⟨c4, i4, h4⟩ := coeffEncode_answers ha2
  refine ⟨c0, c1, c2, c3, c4, i0, i1, i2, i3, i4, h0, h1, h2, h3, h4, ?_⟩
  have hbody := (eqwrBody_open hunit hinit).trans (eqwrEffect_ok (s := s) h0 h1 h2 h3 h4)
  rw [exec_of_ok (i := .eqwr unit b0 b1 b2 a1 a2) hf hbody, eqFrame_eq]
  rfl

/-! ### STATUS as a word (R29) -/

/-- Settles O51. -/
theorem statusWordLayout : Obligations.StatusWordLayout := by
  intro st
  refine ⟨?initDone, ?fault, ?inexact, ?reserved, ?fcode, fun n hn => ?high⟩
  case high =>
    simp (disch := omega) only [Status.word, BitVec.getLsbD_append, if_neg, BitVec.getLsbD_zero]
  case fcode =>
    refine BitVec.eq_of_getLsbD_eq fun i hi => ?_
    have hpos : 4 + i - 1 - 1 - 1 - 1 = i := by omega
    simp (disch := omega) only [Status.word, BitVec.getLsbD_extractLsb', BitVec.getLsbD_append, if_neg, hpos, hi,
      decide_true, Bool.true_and, if_true]
  all_goals
    simp only [Status.word, BitVec.getLsbD_append]
    simp

/-! ### The bytes of bus events (R52, R53) -/

/-- Settles O53. -/
theorem busEventsCarryTheirBytes : Obligations.BusEventsCarryTheirBytes := by
  refine ⟨fun _ _ => rfl, fun _ => rfl, ?_⟩
  rintro c bs (⟨f, rfl⟩ | ⟨u, hu, c0, c1, c2, c3, c4, rfl⟩)
  · obtain ⟨hlength, hheader, -⟩ := voicePayloadLayout c f
    exact .inl ⟨hlength, hheader 0 (by decide)⟩
  · rw [eqFrame_eq]
    exact .inr ⟨rfl, u.toNat, hu, rfl⟩

end Sys2Proof.Machine
end

section
/-! SUPPORT. What an assembled command's fields are (30_encoding.md R90, R91), and the obligation O55. -/

namespace Sys2Proof.Machine

/-! ### Operands and fields (R90) -/

/-- If the text reads as an integer, it is this one. -/
def ReadsAs (text : List Char) (v : Nat) : Prop := ∀ n, parseInteger text = some n → v = n

/-- Operand by operand: each integer field is below its bound and is what its operand reads as. The operands after the
integer ones are free. -/
def FieldsRead : List Nat → List (List Char) → List Nat → Prop
  | [], _, [] => True
  | b :: bounds, text :: texts, v :: fields => (v < b ∧ ReadsAs text v) ∧ FieldsRead bounds texts fields
  | _, _, _ => False

theorem FieldsRead.getElem? {bounds fields : List Nat} {texts : List (List Char)} (h : FieldsRead bounds texts fields)
    {k n : Nat} {text : List Char} (htext : texts[k]? = some text) (hn : parseInteger text = some n) :
    (k < fields.length → fields[k]? = some n) ∧ ∀ b, bounds[k]? = some b → n < b := by
  induction bounds generalizing texts fields k with
  | nil =>
    cases fields with
    | nil => simp
    | cons v fields => exact h.elim
  | cons b bounds ih =>
    match texts, fields, h with
    | t :: texts, v :: fields, ⟨⟨hlt, hreads⟩, hrest⟩ =>
      cases k with
      | zero =>
        obtain rfl : t = text := by simpa using htext
        obtain rfl := hreads n hn
        simpa using hlt
      | succ k => simpa using ih hrest htext

/-- A field of a taken integer operand: the operand's integer, not truncated. -/
theorem parseBelow_field {bound w n : Nat} {text : List Char} (hw : bound ≤ 2 ^ w)
    (h : parseBelow bound text = some n) :
    (BitVec.ofNat w n).toNat < bound ∧ ReadsAs text (BitVec.ofNat w n).toNat := by
  obtain ⟨hn, hlt⟩ := parseBelow_some h
  rw [BitVec.toNat_ofNat, Nat.mod_eq_of_lt (Nat.lt_of_lt_of_le hlt hw)]
  exact ⟨hlt, fun m hm => Option.some.inj (hn.symm.trans hm)⟩

/-- A descriptor field: an index of the list, the operand's own if that is an integer. -/
theorem parseDescriptor_field {ds : List Descriptor} {n : Nat} {text : List Char} (hds : ds.length ≤ 256)
    (h : parseDescriptor ds text = some n) :
    (BitVec.ofNat 8 n).toNat < ds.length ∧ ReadsAs text (BitVec.ofNat 8 n).toNat := by
  obtain ⟨hlt, hreads⟩ := parseDescriptor_some h
  rw [BitVec.toNat_ofNat, Nat.mod_eq_of_lt (by omega)]
  exact ⟨hlt, fun m hm => (hreads m hm).symm⟩

/-- A command taken from a mnemonic and its operands is legal and has the fields its operands read as, below their
bounds. The cases are the mnemonics in the order of `parseCommand`. -/
theorem parseCommand_some {c : Config} (hdg : c.dg.length ≤ 256) (hdop : c.dop.length ≤ 256) {mnemonic : String}
    {ops : List (List Char)} {i : Instr} (h : parseCommand c mnemonic ops = some i) :
    i.legal c = true ∧ FieldsRead (operandBounds c mnemonic) ops i.integerFields := by
  unfold parseCommand at h
  split at h
  all_goals
    simp only [Option.bind_eq_bind, Option.bind_eq_some_iff, Option.pure_def, Option.some.injEq, reduceCtorEq] at h
  case h_1 => -- SETUP
    cases h; exact ⟨rfl, trivial⟩
  case h_2 => -- PWRG
    obtain ⟨idx, hidx, val, hval, rfl⟩ := h
    have hidx := parseDescriptor_field hdg hidx
    exact ⟨decide_eq_true hidx.1, hidx, parseBelow_field (by decide) hval, trivial⟩
  case h_3 => -- PWRO
    obtain ⟨idx, hidx, opi, hopi, val, hval, rfl⟩ := h
    have hidx := parseDescriptor_field hdop hidx
    exact ⟨decide_eq_true hidx.1, hidx, parseBelow_field (by decide) hopi, parseBelow_field (by decide) hval, trivial⟩
  case h_4 => -- ENCFRAME
    cases h; exact ⟨rfl, trivial⟩
  case h_5 => -- SENDFRAME
    cases h; exact ⟨rfl, trivial⟩
  case h_6 => -- NOTEON
    obtain ⟨note, hnote, vel, hvel, rfl⟩ := h
    exact ⟨rfl, parseBelow_field (by decide) hnote, parseBelow_field (by decide) hvel, trivial⟩
  case h_7 => -- NOTEOFF
    obtain ⟨note, hnote, rfl⟩ := h
    exact ⟨rfl, parseBelow_field (by decide) hnote, trivial⟩
  case h_8 => -- NOTEEV
    obtain ⟨voice, hvoice, hi, hhi, lo, hlo, vel, hvel, rfl⟩ := h
    exact ⟨rfl, parseBelow_field (by decide) hvoice, parseBelow_field (by decide) hhi, parseBelow_field (by decide) hlo,
      parseBelow_field (by decide) hvel, trivial⟩
  case h_9 => -- COEFENC
    obtain ⟨x, -, rfl⟩ := h
    exact ⟨rfl, trivial⟩
  case h_10 => -- EQWR
    obtain ⟨unit, hunit, b0, -, b1, -, b2, -, a1, -, a2, -, rfl⟩ := h
    have hunit := parseBelow_field (w := 2) (by decide) hunit
    exact ⟨decide_eq_true hunit.1, hunit, trivial⟩

/-- Settles O55: a command is taken only with its fields read, and a refused line is one that gives none. -/
theorem assembledCommandsAreLegal : Obligations.AssembledCommandsAreLegal := by
  intro c line hdg hdop
  refine ⟨fun i h => ?legal, fun mnemonic ops k n bound text htokens hbound htext hn hle => ?refused⟩
  case legal =>
    obtain ⟨-, ha⟩ | ⟨mnemonic, ops, htokens, ⟨j, hparse, ha⟩ | ⟨-, ha⟩⟩ := assembleLine_cases c line
    case inr.inl =>
      cases ha.symm.trans h
      obtain ⟨hlegal, hfields⟩ := parseCommand_some hdg hdop hparse
      exact ⟨hlegal, mnemonic, ops, htokens, fun k n text hk htext hn => (hfields.getElem? htext hn).1 hk⟩
    all_goals cases ha.symm.trans h
  case refused =>
    obtain ⟨hnone, -⟩ | ⟨mnemonic', ops', htokens', ⟨i, hparse, -⟩ | ⟨-, ha⟩⟩ := assembleLine_cases c line
    · cases hnone.symm.trans htokens
    · cases htokens'.symm.trans htokens
      have hlt := ((parseCommand_some hdg hdop hparse).2.getElem? htext hn).2 bound hbound
      exact absurd hlt (Nat.not_lt.mpr hle)
    · exact ha

end Sys2Proof.Machine
end

section
/-! SUPPORT. The coefficient code (44_coeff_codec.md sections 1 and 3): the carry loop, the repeated doubling, the closed
form, the round trip, and the obligations O43, O44, O45 and O46. -/

namespace Sys2Proof.Machine

/-! ### The carry loop (R185) -/

/-- Adding a power of two at a clear bit sets it. -/
theorem add_bit_of_clear {b : Code} {i : Nat} (h : b.getLsbD i = false) : b + (1#24 <<< i) = b ||| (1#24 <<< i) := by
  refine BitVec.add_eq_or_of_and_eq_zero _ _ (BitVec.eq_of_getLsbD_eq fun j hj => ?_)
  rw [BitVec.getLsbD_and, BitVec.getLsbD_shiftLeft, BitVec.getLsbD_one]
  by_cases hij : j = i
  · simp [hij, h]
  · by_cases hlt : j < i
    · simp [hlt]
    · simp [show ¬ j - i = 0 by omega]

/-- A set bit cleared and added again. -/
theorem clear_bit_add {b : Code} {i : Nat} (h : b.getLsbD i = true) : (b &&& ~~~(1#24 <<< i)) + (1#24 <<< i) = b := by
  rw [BitVec.add_eq_or_of_and_eq_zero]
  · refine BitVec.eq_of_getLsbD_eq fun j hj => ?_
    simp only [BitVec.getLsbD_or, BitVec.getLsbD_and, BitVec.getLsbD_not, BitVec.getLsbD_shiftLeft, BitVec.getLsbD_one]
    by_cases hij : j = i
    · subst hij; simp [h, hj]
    · by_cases hlt : j < i
      · simp [hlt, hj]
      · simp [hj, show ¬ j - i = 0 by omega]
  · rw [BitVec.and_assoc, BitVec.not_and_self]
    exact BitVec.and_zero

/-- The carry loop from bit `i` on to the top adds 2^i. -/
theorem carryFrom_eq_add (n i : Nat) (b : Code) (h : i + n = 24) : carryFrom n i b = b + (1#24 <<< i) := by
  induction n generalizing i b with
  | zero =>
    obtain rfl : i = 24 := h
    exact (BitVec.add_zero b).symm
  | succ n ih =>
    rw [carryFrom]
    split
    next hset =>
      have hdouble : 1#24 <<< (i + 1) = 1#24 <<< i + 1#24 <<< i := by
        rw [BitVec.shiftLeft_add]
        refine BitVec.eq_of_toNat_eq ?_
        rw [BitVec.toNat_shiftLeft, BitVec.toNat_add, Nat.shiftLeft_eq, Nat.pow_one, Nat.mul_two]
      rw [ih (i + 1) _ (by omega), hdouble, ← BitVec.add_assoc, clear_bit_add hset]
    next hclear => rw [add_bit_of_clear (by simpa using hclear)]

/-- Settles O43. -/
theorem carryPropagationAddsOne : Obligations.CarryPropagationAddsOne :=
  fun b => carryFrom_eq_add 24 0 b rfl

/-! ### The repeated doubling (R184) -/

theorem b64One_eq : b64One = 2 ^ 1074 := by
  have hshift (n : Nat) : 1 <<< n = 2 ^ n := Nat.one_shiftLeft n
  exact hshift 1074

theorem toNat_shiftLeft_one_or_one (f : BitVec 20) : ((f <<< 1) ||| 1).toNat = (2 * f.toNat + 1) % 2 ^ 20 := by
  have hor : (f <<< 1) ||| (1 : BitVec 20) = f <<< 1 + (1 : BitVec 20) := by
    symm
    refine BitVec.add_eq_or_of_and_eq_zero _ _ (BitVec.eq_of_getLsbD_eq fun j hj => ?_)
    cases j <;> simp
  rw [hor, BitVec.toNat_add, BitVec.toNat_shiftLeft, Nat.shiftLeft_eq]
  simp
  omega

/-- One bit taken off. -/
theorem doubleOut_succ (n r : Nat) (f : BitVec 20) :
    doubleOut (n + 1) r f =
      if 2 * r ≥ b64One then doubleOut n (2 * r - b64One) ((f <<< 1) ||| 1) else doubleOut n (2 * r) (f <<< 1) := rfl

/-- After `n` doublings of a remainder below 1 the bits taken off, put below the bits there were, are the quotient of
`r * 2^n` by 1 (in units of 2^-1074), and what is left is the remainder of that division. -/
theorem doubleOut_spec (n r : Nat) (f : BitVec 20) (h : r < b64One) :
    (doubleOut n r f).1.toNat = (f.toNat * 2 ^ n + r * 2 ^ n / b64One) % 2 ^ 20 ∧
      (doubleOut n r f).2 = r * 2 ^ n % b64One := by
  induction n generalizing r f with
  | zero =>
    rw [doubleOut, Nat.pow_zero, Nat.mul_one, Nat.mul_one, Nat.div_eq_of_lt h, Nat.add_zero, Nat.mod_eq_of_lt h,
      Nat.mod_eq_of_lt f.isLt]
    exact ⟨rfl, rfl⟩
  | succ n ih =>
    have hpow : r * 2 ^ (n + 1) = 2 * r * 2 ^ n := by rw [Nat.pow_succ]; ring
    rw [doubleOut_succ, hpow]
    split
    next hge =>
      obtain ⟨hbits, hrest⟩ := ih (2 * r - b64One) ((f <<< 1) ||| 1) (by omega)
      have hsplit : 2 * r * 2 ^ n = b64One * 2 ^ n + (2 * r - b64One) * 2 ^ n := by
        rw [← Nat.add_mul, Nat.add_sub_cancel' hge]
      rw [hbits, hrest, hsplit, Nat.mul_add_div b64One_pos, Nat.mul_add_mod, toNat_shiftLeft_one_or_one]
      refine ⟨?_, rfl⟩
      rw [Nat.add_mod, Nat.mod_mul_mod, ← Nat.add_mod]
      congr 1
      rw [Nat.pow_succ]
      ring
    next hlt =>
      obtain ⟨hbits, hrest⟩ := ih (2 * r) (f <<< 1) (by omega)
      rw [hbits, hrest, BitVec.toNat_shiftLeft, Nat.shiftLeft_eq]
      refine ⟨?_, rfl⟩
      rw [Nat.add_mod, Nat.mod_mul_mod, ← Nat.add_mod]
      congr 1
      rw [Nat.pow_succ]
      ring

/-- The 20 bits after the binary point (R184). -/
theorem fractionExpansion_bits (m : Nat) :
    (fractionExpansion m).1.toNat = m % b64One * 2 ^ 20 / b64One := by
  have hlt : m % b64One < b64One := Nat.mod_lt m b64One_pos
  have hbits : m % b64One * 2 ^ 20 / b64One < 2 ^ 20 := by
    rw [Nat.div_lt_iff_lt_mul b64One_pos, Nat.mul_comm]
    exact Nat.mul_lt_mul_of_pos_left hlt (Nat.two_pow_pos 20)
  rw [fractionExpansion, (doubleOut_spec 20 _ 0 hlt).1, show (0 : BitVec 20).toNat = 0 from rfl,
    Nat.zero_mul, Nat.zero_add, Nat.mod_eq_of_lt hbits]

/-- The remainder truncation discards is not 0 exactly when a bit was lost (R184, R186). -/
theorem fractionExpansion_rest (m : Nat) : (fractionExpansion m).2 ≠ 0 ↔ ¬ b64One ∣ m * 2 ^ 20 := by
  have hlt : m % b64One < b64One := Nat.mod_lt m b64One_pos
  rw [fractionExpansion, (doubleOut_spec 20 _ 0 hlt).2, Nat.mod_mul_mod, Nat.dvd_iff_mod_eq_zero]

/-- Settles O44. -/
theorem repeatedDoublingTruncatesTheFraction : Obligations.RepeatedDoublingTruncatesTheFraction := by
  intro m
  rw [← b64One_eq]
  exact ⟨fractionExpansion_bits m, fractionExpansion_rest m⟩

/-! ### The code as a number (R185, R187) -/

/-- T of R187 for a magnitude in units of 2^-1074: the integer part modulo 8 and the 20 bits after the point. -/
def truncatedMagnitude (m : Nat) : Nat := m / b64One % 8 * 2 ^ 20 + m % b64One * 2 ^ 20 / b64One

/-- The code word before the sign is applied, `{0, I, F}` (R185). -/
def magnitudeCode (m : Nat) : Code := 0#1 ++ integerField m ++ (fractionExpansion m).1

theorem toNat_magnitudeCode (m : Nat) : (magnitudeCode m).toNat = truncatedMagnitude m := by
  have hhead : (0#1 ++ integerField m).toNat = (integerField m).toNat := by
    rw [BitVec.toNat_append, BitVec.toNat_zero, Nat.zero_shiftLeft, Nat.zero_or]
  have happend : (magnitudeCode m).toNat = (0#1 ++ integerField m).toNat <<< 20 ||| (fractionExpansion m).1.toNat :=
    BitVec.toNat_append _ _
  have hinteger : (integerField m).toNat = m / b64One % 8 := by rw [integerField, BitVec.toNat_ofNat]
  rw [happend, hhead, ← Nat.shiftLeft_add_eq_or_of_lt (fractionExpansion m).1.isLt, hinteger, fractionExpansion_bits,
    Nat.shiftLeft_eq]
  rfl

theorem truncatedMagnitude_lt (m : Nat) : truncatedMagnitude m < 2 ^ 23 := by
  have hinteger : m / b64One % 8 < 8 := Nat.mod_lt _ (by decide)
  have hbits : m % b64One * 2 ^ 20 / b64One < 2 ^ 20 := fractionExpansion_bits m ▸ (fractionExpansion m).1.isLt
  rw [truncatedMagnitude]
  omega

/-- The code of a negative operand is the two's complement of its magnitude's (R185). -/
theorem codeWord_eq (neg : Bool) (m : Nat) :
    codeWord neg (integerField m) (fractionExpansion m).1 = if neg then -magnitudeCode m else magnitudeCode m := by
  cases neg with
  | false => rfl
  | true =>
    have hnot : 1#1 ++ ~~~integerField m ++ ~~~(fractionExpansion m).1 = ~~~magnitudeCode m := by
      rw [magnitudeCode, BitVec.not_append, BitVec.not_append]
      rfl
    rw [codeWord, if_pos rfl, if_pos rfl, hnot, carryFrom_eq_add 24 0 _ rfl, BitVec.neg_eq_not_add]
    rfl

/-! ### The number an operand denotes (R11) -/

theorem b64Value_eq (x : Binary64) :
    b64Value x = (if b64SignBit x then -1 else 1) * ((b64Magnitude x : ℚ) / (b64One : ℚ)) := by
  rw [b64One_eq, Nat.cast_pow, Nat.cast_ofNat]
  rfl

theorem b64One_cast_pos : (0 : ℚ) < (b64One : ℚ) := Nat.cast_pos.mpr b64One_pos

theorem abs_b64Value (x : Binary64) : |b64Value x| = (b64Magnitude x : ℚ) / (b64One : ℚ) := by
  have hnonneg : (0 : ℚ) ≤ (b64Magnitude x : ℚ) / (b64One : ℚ) := div_nonneg (Nat.cast_nonneg _) b64One_cast_pos.le
  rw [b64Value_eq, abs_mul, abs_of_nonneg hnonneg]
  split <;> simp

/-- The model's comparison with 0 is the number's (R182). -/
theorem b64Negative_iff (x : Binary64) : b64Negative x = true ↔ b64Value x < 0 := by
  have hpos : b64Magnitude x ≠ 0 ↔ (0 : ℚ) < (b64Magnitude x : ℚ) / (b64One : ℚ) := by
    rw [div_pos_iff_of_pos_right b64One_cast_pos, Nat.cast_pos, Nat.pos_iff_ne_zero]
  rw [b64Negative, Bool.and_eq_true, decide_eq_true_iff, hpos, b64Value_eq]
  cases b64SignBit x with
  | false => simp; exact div_nonneg (Nat.cast_nonneg _) (Nat.cast_nonneg _)
  | true => simp

/-! ### The closed form (R187) -/

/-- Adding an integer leaves the fraction's 20 bits. -/
theorem floor_intCast_add_mul (z : ℤ) (a : ℚ) : ⌊((z : ℚ) + a) * 2 ^ 20⌋ = z * 2 ^ 20 + ⌊a * 2 ^ 20⌋ := by
  have hsplit : ((z : ℚ) + a) * 2 ^ 20 = ((z * 2 ^ 20 : ℤ) : ℚ) + a * 2 ^ 20 := by push_cast; ring
  rw [hsplit, Int.floor_intCast_add]

/-- T of R187, in the terms of R187. -/
theorem truncatedMagnitude_eq_floor (m : Nat) :
    (truncatedMagnitude m : ℤ) =
      ⌊(m : ℚ) / (b64One : ℚ)⌋ % 8 * 2 ^ 20 + ⌊Int.fract ((m : ℚ) / (b64One : ℚ)) * 2 ^ 20⌋ := by
  have hinteger : ⌊(m : ℚ) / (b64One : ℚ)⌋ = ((m / b64One : Nat) : ℤ) := Rat.floor_natCast_div_natCast m b64One
  have hfraction : Int.fract ((m : ℚ) / (b64One : ℚ)) * 2 ^ 20 = ((m % b64One * 2 ^ 20 : Nat) : ℚ) / (b64One : ℚ) := by
    rw [Int.fract_div_natCast_eq_div_natCast_mod]
    push_cast
    ring
  have hbits : ⌊((m % b64One * 2 ^ 20 : Nat) : ℚ) / (b64One : ℚ)⌋ = ((m % b64One * 2 ^ 20 / b64One : Nat) : ℤ) :=
    Rat.floor_natCast_div_natCast _ b64One
  rw [hinteger, hfraction, hbits, truncatedMagnitude]
  push_cast
  rfl

/-- From 8 on the integer part is reduced modulo 8; below it is the floor of the whole number (R187, R193). -/
theorem truncatedMagnitude_reduced (m : Nat) :
    (truncatedMagnitude m : ℤ) =
      ⌊(((⌊(m : ℚ) / (b64One : ℚ)⌋ % 8 : ℤ) : ℚ) + Int.fract ((m : ℚ) / (b64One : ℚ))) * 2 ^ 20⌋ := by
  rw [floor_intCast_add_mul, truncatedMagnitude_eq_floor]

theorem truncatedMagnitude_below_eight {m : Nat} (h : (m : ℚ) / (b64One : ℚ) < 8) :
    (truncatedMagnitude m : ℤ) = ⌊(m : ℚ) / (b64One : ℚ) * 2 ^ 20⌋ := by
  have hnonneg : 0 ≤ ⌊(m : ℚ) / (b64One : ℚ)⌋ :=
    Int.floor_nonneg.mpr (div_nonneg (Nat.cast_nonneg _) b64One_cast_pos.le)
  have hlt : ⌊(m : ℚ) / (b64One : ℚ)⌋ < 8 := Int.floor_lt.mpr (by exact_mod_cast h)
  rw [truncatedMagnitude_reduced, Int.emod_eq_of_lt hnonneg hlt, Int.floor_add_fract]

/-- No bit was lost exactly when the magnitude has at most 20 bits after the point (R186). -/
theorem exact_iff_integer (m : Nat) :
    (fractionExpansion m).2 = 0 ↔ ∃ n : ℤ, (m : ℚ) / (b64One : ℚ) * 2 ^ 20 = n := by
  have hone : (b64One : ℚ) ≠ 0 := b64One_cast_pos.ne'
  rw [← not_iff_not, ← ne_eq, fractionExpansion_rest, not_iff_not]
  constructor
  · rintro ⟨n, hn⟩
    refine ⟨n, ?_⟩
    have hcast : (m : ℚ) * 2 ^ 20 = (b64One : ℚ) * (n : ℚ) := by exact_mod_cast hn
    rw [div_mul_eq_mul_div, hcast, mul_div_cancel_left₀ _ hone]
    rfl
  · rintro ⟨n, hn⟩
    have hcast : (m : ℚ) * 2 ^ 20 = n * (b64One : ℚ) := by
      rw [← hn, div_mul_eq_mul_div, div_mul_cancel₀ _ hone]
    have hint : ((m * 2 ^ 20 : Nat) : ℤ) = n * (b64One : ℤ) := by exact_mod_cast hcast
    exact Int.natCast_dvd_natCast.mp ⟨n, by rw [hint, mul_comm]⟩

/-- The code and the flag of a finite operand, by its magnitude. -/
theorem coeffEncode_eq {x : Binary64} (h : b64NonFinite x = false) :
    coeffEncode x = .ok (if b64Value x < 0 then -magnitudeCode (b64Magnitude x) else magnitudeCode (b64Magnitude x),
      decide ((fractionExpansion (b64Magnitude x)).2 ≠ 0)) := by
  rw [coeffEncode_of_finite (Bool.eq_false_iff.mp h), codeWord_eq]
  simp only [b64Negative_iff]

theorem toNat_neg_magnitudeCode (m : Nat) :
    (-magnitudeCode m).toNat = (2 ^ 24 - truncatedMagnitude m) % 2 ^ 24 := by
  rw [BitVec.toNat_neg, toNat_magnitudeCode]

/-- Settles O45: every clause is one about T below 2^23. -/
theorem codeHasTheClosedForm : Obligations.CodeHasTheClosedForm := by
  intro x hx
  refine ⟨_, _, coeffEncode_eq hx, ?_⟩
  intro v T
  have habs : |v| = (b64Magnitude x : ℚ) / (b64One : ℚ) := abs_b64Value x
  have hT : T = (truncatedMagnitude (b64Magnitude x) : ℤ) := by
    rw [truncatedMagnitude_eq_floor, ← habs]
  have hbelow (h8 : |v| < 8) : (truncatedMagnitude (b64Magnitude x) : ℤ) = ⌊|v| * 2 ^ 20⌋ := by
    rw [habs] at h8 ⊢
    exact truncatedMagnitude_below_eight h8
  have hlt := truncatedMagnitude_lt (b64Magnitude x)
  have hpos := toNat_magnitudeCode (b64Magnitude x)
  have hneg := toNat_neg_magnitudeCode (b64Magnitude x)
  refine ⟨fun h0 => ?nonneg, fun h0 => ?neg, ?min, fun h8 h0 => ?nonnegBelow, fun h8 h0 => ?negBelow, ?inexact⟩
  case nonneg =>
    rw [if_neg (not_lt.mpr h0), hpos, hT]
    omega
  case neg =>
    rw [if_pos h0, hneg, hT]
    refine ⟨by omega, fun hne => ?_⟩
    have hcode : (-magnitudeCode (b64Magnitude x)).toNat ≠ 0 := fun h => hne (BitVec.eq_of_toNat_eq h)
    omega
  case min =>
    split
    all_goals
      intro heq
      have hcode := congrArg BitVec.toNat heq
      change _ = 0x800000 at hcode
      omega
  case nonnegBelow =>
    rw [if_neg (not_lt.mpr h0), hpos, ← hbelow h8]
    omega
  case negBelow =>
    rw [if_pos h0, hneg, ← hbelow h8]
    omega
  case inexact => rw [decide_eq_false_iff_not, not_not, exact_iff_integer, habs]

/-! ### Decoding a code (R192, R193) -/

theorem coeffDecode_magnitudeCode (m : Nat) :
    coeffDecode (magnitudeCode m) = (((truncatedMagnitude m : Nat) : ℤ) : ℚ) / 2 ^ 20 := by
  have hlt := truncatedMagnitude_lt m
  have hint : (magnitudeCode m).toInt = ((truncatedMagnitude m : Nat) : ℤ) := by
    rw [BitVec.toInt_eq_toNat_of_lt (by rw [toNat_magnitudeCode]; omega), toNat_magnitudeCode]
  rw [coeffDecode, hint]

theorem coeffDecode_neg_magnitudeCode (m : Nat) :
    coeffDecode (-magnitudeCode m) = -(((truncatedMagnitude m : Nat) : ℤ) : ℚ) / 2 ^ 20 := by
  have hlt := truncatedMagnitude_lt m
  have hint : (-magnitudeCode m).toInt = -((truncatedMagnitude m : Nat) : ℤ) := by
    rw [BitVec.toInt_eq_toNat_bmod, toNat_neg_magnitudeCode, Int.bmod_def]
    omega
  rw [coeffDecode, hint, Int.cast_neg]

/-- The code of a finite operand decodes to T in units of 2^-20, with the operand's sign. -/
theorem coeffDecode_code {x : Binary64} {c : Code} {inexact : Bool} (h : coeffEncode x = .ok (c, inexact)) :
    coeffDecode c =
        (if b64Value x < 0 then -1 else 1) * (((truncatedMagnitude (b64Magnitude x) : Nat) : ℤ) : ℚ) / 2 ^ 20 ∧
      (inexact = false ↔ ∃ n : ℤ, |b64Value x| * 2 ^ 20 = n) := by
  rw [coeffEncode_eq (Bool.eq_false_iff.mpr (finite_of_coeffEncode_ok h))] at h
  obtain ⟨hc, hi⟩ := Prod.mk.inj (Except.ok.inj h)
  refine ⟨?_, ?_⟩
  · rw [← hc]
    split
    · rw [coeffDecode_neg_magnitudeCode, neg_one_mul]
    · rw [coeffDecode_magnitudeCode, one_mul]
  · rw [← hi, decide_eq_false_iff_not, not_not, exact_iff_integer, abs_b64Value]

/-- Truncating a magnitude to 20 bits loses less than 2^-20, and nothing exactly when it has no more. -/
theorem truncation_error (a : ℚ) :
    |a - (⌊a * 2 ^ 20⌋ : ℚ) / 2 ^ 20| < 1 / 2 ^ 20 ∧ ((⌊a * 2 ^ 20⌋ : ℚ) / 2 ^ 20 = a ↔ ∃ n : ℤ, a * 2 ^ 20 = n) := by
  have hle := Int.floor_le (a * 2 ^ 20)
  have hlt := Int.lt_floor_add_one (a * 2 ^ 20)
  refine ⟨?_, fun h => ⟨⌊a * 2 ^ 20⌋, ?_⟩, ?_⟩
  · generalize (⌊a * 2 ^ 20⌋ : ℚ) = q at hle hlt ⊢
    rw [abs_lt]
    constructor <;> linarith
  · generalize (⌊a * 2 ^ 20⌋ : ℚ) = q at h ⊢
    linarith
  · rintro ⟨n, hn⟩
    rw [hn, Int.floor_intCast, ← hn]
    exact mul_div_cancel_right₀ a (by norm_num)

/-- Settles O46: the sign comes off both sides, and T is the floor of the magnitude in units of 2^-20. -/
theorem codeRoundTripsWithinOneStep : Obligations.CodeRoundTripsWithinOneStep := by
  intro x c inexact h v sign
  obtain ⟨hdecode, hinexact⟩ := coeffDecode_code h
  have habs : |v| = (b64Magnitude x : ℚ) / (b64One : ℚ) := abs_b64Value x
  have hv : v = sign * |v| := by
    by_cases h0 : v < 0
    · simp only [sign, if_pos h0, abs_of_neg h0, neg_one_mul, neg_neg]
    · simp only [sign, if_neg h0, abs_of_nonneg (not_lt.mp h0), one_mul]
  have hsign : |sign| = 1 := by
    simp only [sign]
    split <;> simp
  refine ⟨fun h8 => ?below, fun _ => ?above⟩
  case below =>
    have hT : (truncatedMagnitude (b64Magnitude x) : ℤ) = ⌊|v| * 2 ^ 20⌋ := by
      rw [habs] at h8 ⊢
      exact truncatedMagnitude_below_eight h8
    have hcode : coeffDecode c = sign * ((⌊|v| * 2 ^ 20⌋ : ℤ) : ℚ) / 2 ^ 20 := by rw [hdecode, hT]
    obtain ⟨herror, hexact⟩ := truncation_error |v|
    refine ⟨hcode, ?_, ?_⟩
    · calc |v - coeffDecode c| = |sign * (|v| - (⌊|v| * 2 ^ 20⌋ : ℚ) / 2 ^ 20)| := by
            rw [hcode, mul_sub, ← hv, mul_div_assoc]
        _ = |(|v| - (⌊|v| * 2 ^ 20⌋ : ℚ) / 2 ^ 20)| := by rw [abs_mul, hsign, one_mul]
        _ < 1 / 2 ^ 20 := herror
    · have hne : sign ≠ 0 := fun h0 => by simp [h0] at hsign
      rw [hinexact, ← hexact, hcode, mul_div_assoc]
      nth_rw 2 [hv]
      exact mul_right_inj' hne
  case above =>
    rw [hdecode, truncatedMagnitude_reduced, ← habs]

end Sys2Proof.Machine
end

section
/-! SUPPORT. The rounding and the parsing of binary64 literals (30_encoding.md R90), and the obligation O54. -/

namespace Sys2Proof.Machine

/-! ### The pattern of an operand (R11, R181) -/

/-- The bits of a pattern below the sign bit, as a number: the exponent field and the fraction field. -/
def b64LowBits (x : Binary64) : Nat := (b64Exponent x).toNat * 2 ^ 52 + (b64Fraction x).toNat

theorem b64LowBits_eq_toNat (x : Binary64) : b64LowBits x = (x.extractLsb' 0 63).toNat := by
  have hfields : b64Exponent x ++ b64Fraction x = x.extractLsb' 0 63 :=
    BitVec.extractLsb'_append_extractLsb'_eq_extractLsb' rfl
  rw [← hfields, BitVec.toNat_append, ← Nat.shiftLeft_add_eq_or_of_lt (b64Fraction x).isLt, Nat.shiftLeft_eq,
    b64LowBits]

/-- A pattern is its sign bit and the bits below it. -/
theorem sign_append_lowBits (x : Binary64) : BitVec.ofBool (b64SignBit x) ++ BitVec.ofNat 63 (b64LowBits x) = x := by
  have hsign : BitVec.ofBool (b64SignBit x) = x.extractLsb' 63 1 := by
    refine BitVec.eq_of_getLsbD_eq fun i hi => ?_
    obtain rfl : i = 0 := by omega
    simp [b64SignBit]
  rw [b64LowBits_eq_toNat, BitVec.ofNat_toNat, BitVec.setWidth_eq, hsign]
  exact BitVec.extractLsb'_append_extractLsb'

/-! ### Rounding a representable fraction (R90) -/

/-- How far a significand of at most 53 bits, 53 unless it is not scaled, is scaled: what is above bit 52. -/
theorem log2_scaled {sig step : Nat} (hsig : sig < 2 ^ 53) (hnormal : step = 0 ∨ 2 ^ 52 ≤ sig) :
    Nat.log2 (sig * 2 ^ step) - 52 = step := by
  by_cases hzero : sig = 0
  · obtain rfl : step = 0 := hnormal.resolve_right (by omega)
    simp [hzero]
  obtain rfl | hlow := hnormal
  · have hlog : Nat.log2 sig < 53 := (Nat.log2_lt hzero).mpr hsig
    rw [Nat.pow_zero, Nat.mul_one]
    omega
  · have hpos : 0 < 2 ^ step := Nat.two_pow_pos step
    have hlog : Nat.log2 (sig * 2 ^ step) = 52 + step := by
      rw [Nat.log2_eq_iff (Nat.mul_ne_zero hzero hpos.ne')]
      refine ⟨?_, ?_⟩
      · rw [Nat.pow_add]
        exact Nat.mul_le_mul_right _ hlow
      · rw [show 52 + step + 1 = 53 + step by omega, Nat.pow_add]
        exact Nat.mul_lt_mul_of_pos_right hsig hpos
    rw [hlog]
    omega

/-- A fraction whose value is a scaled significand is rounded to exactly that: the exponent step and the significand
added. -/
theorem nearestBinary64Bits_of_scaled {num den sig step : Nat} (hden : 0 < den) (hsig : sig < 2 ^ 53)
    (hnormal : step = 0 ∨ 2 ^ 52 ≤ sig) (hunits : num <<< 1074 = sig * 2 ^ step * den) :
    nearestBinary64Bits num den = min (0x7FF <<< 52) (step <<< 52 + sig) := by
  have hscaled : sig * 2 ^ step * den = sig * den <<< step := by rw [Nat.shiftLeft_eq]; ring
  have hstep : 0 < den <<< step := by
    rw [Nat.shiftLeft_eq]
    exact Nat.mul_pos hden (Nat.two_pow_pos step)
  rw [nearestBinary64Bits, hunits, Nat.mul_div_cancel _ hden]
  simp only [log2_scaled hsig hnormal]
  rw [hscaled, roundDiv_mul_left sig hstep]

/-- A fraction whose value is the magnitude of a finite operand is rounded to that operand's bits. -/
theorem nearestBinary64Bits_of_magnitude {x : Binary64} {num den : Nat} (hx : b64NonFinite x = false) (hden : 0 < den)
    (hunits : num <<< 1074 = b64Magnitude x * den) : nearestBinary64Bits num den = b64LowBits x := by
  have hfraction : (b64Fraction x).toNat < 2 ^ 52 := (b64Fraction x).isLt
  have hexponent : (b64Exponent x).toNat < 0x7FF := by
    have hne : (b64Exponent x).toNat ≠ 0x7FF := fun h =>
      Bool.eq_false_iff.mp hx ((b64NonFinite_iff x).mpr (BitVec.eq_of_toNat_eq h))
    have hlt : (b64Exponent x).toNat < 2 ^ 11 := (b64Exponent x).isLt
    omega
  rw [b64LowBits]
  by_cases hzero : (b64Exponent x).toNat = 0
  · have hmagnitude : b64Magnitude x = (b64Fraction x).toNat * 2 ^ 0 := by
      rw [b64Magnitude, if_pos hzero, Nat.pow_zero, Nat.mul_one]
    rw [nearestBinary64Bits_of_scaled hden (by omega) (.inl rfl) (hmagnitude ▸ hunits), hzero]
    simp only [Nat.shiftLeft_eq]
    omega
  · have hmagnitude : b64Magnitude x = (2 ^ 52 + (b64Fraction x).toNat) * 2 ^ ((b64Exponent x).toNat - 1) := by
      rw [b64Magnitude, if_neg hzero, Nat.shiftLeft_eq]
    rw [nearestBinary64Bits_of_scaled hden (by omega) (.inr (by omega)) (hmagnitude ▸ hunits)]
    simp only [Nat.shiftLeft_eq]
    omega

theorem nearestBinary64_of_magnitude {x : Binary64} {num den : Nat} (hx : b64NonFinite x = false) (hden : 0 < den)
    (hvalue : num * 2 ^ 1074 = b64Magnitude x * den) : nearestBinary64 (b64SignBit x) num den = x := by
  have hshift (n : Nat) : num <<< n = num * 2 ^ n := Nat.shiftLeft_eq num n
  rw [nearestBinary64, nearestBinary64Bits_of_magnitude hx hden ((hshift 1074).trans hvalue), sign_append_lowBits]

/-! ### Literals (R90) -/

theorem scaleRational_den_pos {mant den base : Nat} (hden : 0 < den) (hbase : 0 < base) (exp : Bool × Nat) :
    0 < (scaleRational mant den base exp).2 := by
  unfold scaleRational
  split
  · exact Nat.mul_pos hden (Nat.pow_pos hbase)
  · exact hden

/-- The fraction a literal denotes has a positive denominator. -/
theorem parseLiteral_den_pos {cs : List Char} {num den : Nat} (h : parseLiteral cs = some (num, den)) : 0 < den := by
  unfold parseLiteral at h
  split at h
  case h_1 hex _ =>
    simp only [parseHexFloat, Option.bind_eq_bind, Option.bind_eq_some_iff, Option.pure_def, Option.some.injEq] at h
    obtain ⟨⟨mant, places⟩, -, digits, -, e, -, hr⟩ := h
    have hden : 0 < (num, den).2 := hr ▸ scaleRational_den_pos (Nat.pow_pos (by decide)) (by decide) e
    exact hden
  case h_2 =>
    simp only [parseDecimal, Option.bind_eq_bind, Option.bind_eq_some_iff, Option.pure_def, Option.some.injEq] at h
    obtain ⟨⟨mant, places⟩, -, e, -, hr⟩ := h
    have hden : 0 < (num, den).2 := hr ▸ scaleRational_den_pos (Nat.pow_pos (by decide)) (by decide) e
    exact hden

theorem splitAtMark_fst (mark : Char → Bool) (cs : List Char) :
    (splitAtMark mark cs).1 = cs.takeWhile fun c => !mark c := by
  unfold splitAtMark
  split <;> rfl

theorem parsePointed_d (cs : List Char) : parsePointed 10 ('d' :: cs) = none := rfl

/-- A text that starts with the letter d, as a raw pattern does, is no literal. -/
theorem parseLiteral_d (cs : List Char) : parseLiteral ('d' :: cs) = none := by
  have hbody : (splitAtMark (fun c => c == 'e' || c == 'E') ('d' :: cs)).1 =
      'd' :: cs.takeWhile fun c => !(c == 'e' || c == 'E') := splitAtMark_fst _ _
  show parseDecimal ('d' :: cs) = none
  cases hsplit : splitAtMark (fun c => c == 'e' || c == 'E') ('d' :: cs) with
  | mk body exp =>
    obtain rfl : body = 'd' :: cs.takeWhile fun c => !(c == 'e' || c == 'E') := by rw [← hbody, hsplit]
    simp [parseDecimal, hsplit, parsePointed_d]

/-- A text with its sign taken off is parsed as the literal it is. -/
theorem parseBinary64_of_literal {text : List Char} {num den : Nat}
    (h : parseLiteral (parseSign text).2 = some (num, den)) :
    parseBinary64 text = some (nearestBinary64 (parseSign text).1 num den) := by
  unfold parseBinary64
  split
  next hex =>
    cases h.symm.trans (parseLiteral_d ('b' :: 'l' :: ':' :: '0' :: 'x' :: hex))
  next => rw [h]; rfl

/-- Settles O54: rounding leaves a representable value alone, and a literal is rounded as it is read. -/
theorem representableLiteralsAreExact : Obligations.RepresentableLiteralsAreExact := by
  intro x num den hx hvalue
  refine ⟨fun hden => nearestBinary64_of_magnitude hx hden hvalue, fun text digits hsign hliteral => ?_⟩
  have hliteral' : parseLiteral (parseSign text).2 = some (num, den) := by rw [hsign]; exact hliteral
  rw [parseBinary64_of_literal hliteral', hsign,
    nearestBinary64_of_magnitude hx (parseLiteral_den_pos hliteral) hvalue]

end Sys2Proof.Machine
end
